-- ==== Sys2Proof/Word.lean ====
section
/-! DEFINITION. The words and records of the spec: bytes, the frame record (R48), the identifier's fields (R45), the five
timeout flags (R19), the agents and contexts (R7, R170), and an operation as the port presents it (R54). -/

namespace Sys2Proof

/-- One byte. -/
abbrev Byte := BitVec 8

/-- The 32-bit unsigned carrier an identifier travels in (R46). -/
abbrev Carrier := BitVec 32

/-- The five timeout flags, in the order of their indices 0 to 4 (R19). -/
inductive Flag where
  | lostCard
  | devBoot
  | devCalc
  | timeout
  | firstPing
  deriving DecidableEq, Repr

/-- The two execution contexts (R170). -/
inductive Context where
  | foreground
  | producer
  deriving DecidableEq, Repr

/-- The three agents that drive the block (R7). -/
inductive Agent where
  | foreground
  | busProducer
  | tickSource
  deriving DecidableEq, Repr

/-- The frame record, `CanFrame` (R48): identifier, number of valid payload bytes, eight payload bytes. -/
structure Frame where
  id : BitVec 29
  length : BitVec 4
  data : Vector Byte 8
  deriving DecidableEq, Repr

/-- What a reader may read of a frame (R95, R121): identifier, length, and the valid payload bytes `data[0 .. length−1]`. -/
structure VisibleFrame where
  id : BitVec 29
  length : BitVec 4
  bytes : List Byte
  deriving DecidableEq, Repr

/-- The four fields of the identifier (R45). -/
structure IdFields where
  priority : BitVec 4
  command : BitVec 8
  responseBit : Bool
  hash : BitVec 16
  deriving DecidableEq, Repr

/-- An operation as it is presented to the block: `op` selects it, `arg` is its argument word (R54). The carrier is as wide
as the widest format, F; a narrower format uses its low bits (R55). -/
structure Request where
  op : BitVec 8
  arg : BitVec 97
  deriving DecidableEq, Repr

end Sys2Proof
end

