-- ==== Sys2Proof/Config.lean ====
section
/-! DEFINITION. The parameters of the block (R5) and the values the spec leaves free, each an opaque constant with no body. -/

namespace Sys2Proof

/-- The parameters a model takes as an argument (R5): FIFO capacity `N`, tick scale `K`, width `W` of the tick counter
(`none`: unbounded). -/
structure Config where
  capacity : Nat
  scale : Nat
  tickBits : Option Nat
  deriving DecidableEq, Repr

/-- The reference values of R5: N = 4, K = 1, W unbounded. -/
def Config.reference : Config := { capacity := 4, scale := 1, tickBits := none }

/-- The constraints of R5: N ≥ 1, K ≥ 1, 2^W > 625·K. -/
abbrev Config.Valid (c : Config) : Prop :=
  1 ≤ c.capacity ∧ 1 ≤ c.scale ∧ c.tickBits.all (fun w => decide (625 * c.scale < 2 ^ w)) = true

/-- FREE VALUE (U1, U14, U22): the bits of a frame record the spec calls `any`, one draw per number. -/
opaque Config.freeRecord : Nat → BitVec 97

/-- FREE VALUE (U13, R24): the accumulator after a reset, one draw per number. -/
opaque Config.freeCrc : Nat → BitVec 16

/-- FREE VALUE (U19, R168): whether, of several requests presented at one instant, the one looked at first is performed now. -/
opaque Config.servedFirst : Nat → Bool

end Sys2Proof
end

