-- ==== Sys2Proof/Syntax.lean ====
section
/-! DEFINITION. The twelve operations of the block (R60), one constructor per row of spec/opcode_table.json. -/

namespace Sys2Proof

/-- The operations (R60). The flag operand is the three bits the port carries (format T, R55), so that the indices 5 to 7
reach the operation that refuses them (R169). -/
inductive Instr where
  | crcInit
  | crcUpdate (byte : Byte)
  | crcRead
  | idEncode (command : BitVec 8) (responseBit : Bool) (hash : BitVec 16)
  | idDecode (id : Carrier)
  | rxqPush (frame : Frame)
  | rxqPop
  | rxqClear
  | tmrTick
  | tmrArm (flag : BitVec 3)
  | tmrTest (flag : BitVec 3)
  | tmrClear
  deriving DecidableEq, Repr

end Sys2Proof
end

