-- ==== Sys2Proof/WellFormed.lean ====
section
/-! DEFINITION. Which operations lie in the domain the spec defines: flag indices 0 to 4 (R19, R62), frame lengths 0 to 8 (R49). -/

namespace Sys2Proof

/-- A flag index names one of the five flags (R19). -/
abbrev flagIndexOk (flag : BitVec 3) : Prop := flag ≤ 4#3

/-- A frame's length is 0 to 8 (R48, R49). -/
abbrev Frame.lengthOk (f : Frame) : Prop := f.length ≤ 8#4

/-- The operand check of an operation; only three operations have one (R169). -/
def Instr.wellFormed : Instr → Bool
  | .rxqPush frame => decide frame.lengthOk
  | .tmrArm flag => decide (flagIndexOk flag)
  | .tmrTest flag => decide (flagIndexOk flag)
  | .crcInit => true
  | .crcUpdate _ => true
  | .crcRead => true
  | .idEncode _ _ _ => true
  | .idDecode _ => true
  | .rxqPop => true
  | .rxqClear => true
  | .tmrTick => true
  | .tmrClear => true

end Sys2Proof
end

