-- ==== Sys2Proof/Decode.lean ====
section
/-! DEFINITION. The operation port's encoding (R54, R55, R60–R64): the packing of the frame record (R48), the decoder, and
after it the encoder, both written from the tables of 30_encoding.md. -/

namespace Sys2Proof

/-- Payload byte `k` of a packed record: record bits 63−8k .. 56−8k (R48). -/
def recordByte (w : BitVec 97) (k : Nat) : Byte := w.extractLsb' (56 - 8 * k) 8

/-- The frame record a 97-bit word holds (R48). -/
def unpackFrame (w : BitVec 97) : Frame :=
  { id := w.extractLsb' 68 29
    length := w.extractLsb' 64 4
    data := #v[recordByte w 0, recordByte w 1, recordByte w 2, recordByte w 3,
               recordByte w 4, recordByte w 5, recordByte w 6, recordByte w 7] }

/-- The 97-bit word of a frame record (R48): identifier, length, `data[0]` … `data[7]` from the top down. -/
def packFrame (f : Frame) : BitVec 97 :=
  (f.id ++ f.length ++ f.data[0] ++ f.data[1] ++ f.data[2] ++ f.data[3] ++ f.data[4] ++ f.data[5] ++ f.data[6]
    ++ f.data[7]).setWidth 97

/-- Why the decoder refuses a request (R62): no operation has this `op`. -/
inductive DecodeError where
  | unassignedOp (op : BitVec 8)
  deriving DecidableEq, Repr

/-- The `op` values of R60. -/
def assignedOps : List (BitVec 8) :=
  [0x00, 0x01, 0x02, 0x10, 0x11, 0x20, 0x21, 0x22, 0x30, 0x31, 0x32, 0x33]

/-- The width of `arg`, a function of `op` alone (R55, R64). -/
def argWidth (op : BitVec 8) : Nat :=
  match op.toNat with
  | 0x01 => 8
  | 0x10 => 25
  | 0x11 => 32
  | 0x20 => 97
  | 0x31 => 3
  | 0x32 => 3
  | _ => 0

/-- A request the port can carry: no argument bit above the format's width (R55). -/
abbrev Request.Fits (r : Request) : Prop := r.arg.toNat < 2 ^ argWidth r.op

/-- The operation a request stands for: all eight bits of `op` are matched (R61), and the fields of `arg` are the ranges of
R55. Argument bits outside the format's fields take no part. -/
def decode (r : Request) : Except DecodeError Instr :=
  match r.op.toNat with
  | 0x00 => .ok .crcInit
  | 0x01 => .ok (.crcUpdate (r.arg.extractLsb' 0 8))
  | 0x02 => .ok .crcRead
  | 0x10 => .ok (.idEncode (r.arg.extractLsb' 17 8) (r.arg.getLsbD 16) (r.arg.extractLsb' 0 16))
  | 0x11 => .ok (.idDecode (r.arg.extractLsb' 0 32))
  | 0x20 => .ok (.rxqPush (unpackFrame r.arg))
  | 0x21 => .ok .rxqPop
  | 0x22 => .ok .rxqClear
  | 0x30 => .ok .tmrTick
  | 0x31 => .ok (.tmrArm (r.arg.extractLsb' 0 3))
  | 0x32 => .ok (.tmrTest (r.arg.extractLsb' 0 3))
  | 0x33 => .ok .tmrClear
  | _ => .error (.unassignedOp r.op)

/-- The request that presents an operation (R55, R60). -/
def encode : Instr → Request
  | .crcInit => { op := 0x00, arg := 0 }
  | .crcUpdate byte => { op := 0x01, arg := byte.setWidth 97 }
  | .crcRead => { op := 0x02, arg := 0 }
  | .idEncode command responseBit hash =>
      { op := 0x10, arg := (command ++ BitVec.ofBool responseBit ++ hash).setWidth 97 }
  | .idDecode id => { op := 0x11, arg := id.setWidth 97 }
  | .rxqPush frame => { op := 0x20, arg := packFrame frame }
  | .rxqPop => { op := 0x21, arg := 0 }
  | .rxqClear => { op := 0x22, arg := 0 }
  | .tmrTick => { op := 0x30, arg := 0 }
  | .tmrArm flag => { op := 0x31, arg := flag.setWidth 97 }
  | .tmrTest flag => { op := 0x32, arg := flag.setWidth 97 }
  | .tmrClear => { op := 0x33, arg := 0 }

/-- A request from the bits of an instruction numbered as spec/opcode_table.json numbers them: `op` is bits 7..0 and the
separate operand word follows from bit 8 up; bits above `nbits` are 0. -/
def requestOfTableWord (nbits w : Nat) : Request :=
  { op := BitVec.ofNat 8 (w % 2 ^ nbits), arg := BitVec.ofNat 97 (w % 2 ^ nbits / 256) }

/-- The instruction the decoder reads from such bits. -/
def decodeTableWord (nbits w : Nat) : Option Instr :=
  match decode (requestOfTableWord nbits w) with
  | .ok i => some i
  | .error _ => none

end Sys2Proof
end

