-- ==== Sys2Proof/Machine/State.lean ====
section
/-! DEFINITION. The state of the block (10_state.md R10–R25) as plain data, what stands at its port, and the state after reset. -/

namespace Sys2Proof.Machine

open Sys2Proof

/-- The slot array (R15, R30) as (slot index, frame) pairs, indices strictly rising; a slot never written is not listed. -/
abbrev Memory := List (Nat × Frame)

/-- The canonical form: indices strictly rising, so equal memories are equal lists. -/
abbrev Memory.wf (m : Memory) : Prop := (m.map Prod.fst).Pairwise (· < ·)

/-- What the environment presents to the block: the reset event (R185), or the requests of one instant, at most one per
agent (R102, R168). -/
inductive Arrival where
  | reset
  | requests (foreground bus tick : Option Request)
  deriving DecidableEq, Repr

/-- The result words of R56, one constructor per format. -/
inductive Result where
  | none
  | crc (value : BitVec 16)
  | ident (id : Carrier)
  | fields (f : IdFields)
  | accepted (flag : Bool)
  | popped (found : Bool) (frame : Frame)
  | set (flag : Bool)
  deriving DecidableEq, Repr

/-- What one step delivers: the operation's result (R54, R56) and the Overflow event (R93), a pulse with no memory behind it. -/
structure Output where
  result : Result
  overflow : Bool
  deriving DecidableEq, Repr

/-- Machine faults. The block itself never traps (R165). -/
inductive Fault where
  /-- Raised by the slot access of RXQ.PUSH and RXQ.POP when the index register is outside `0 .. N−1`, an address R30 says
  does not exist. Safe: no state with `RD, WR < N` (R13) raises it. -/
  | noSuchSlot (index : Nat)
  deriving DecidableEq, Repr

/-- Refusals: the closed list of R163, and the host's own `notModelled`. Each ends the run (safe: R163, errs toward
unprovable). -/
inductive Refusal where
  /-- Raised by an arm of `exec` that has no meaning yet; no arm has it. Safe. -/
  | notModelled (mnemonic : String)
  /-- Raised by the step when no operation has this `op` (R62). Safe. -/
  | unassignedOp (op : BitVec 8)
  /-- Raised by an operation issued from a context R170 does not allow. Safe. -/
  | wrongContext
  /-- Raised by TMR.ARM and TMR.TEST with a flag index 5 to 7 (R62). Safe. -/
  | noSuchFlag (flag : BitVec 3)
  /-- Raised by RXQ.PUSH of a frame with length 9 to 15 (R96). Safe. -/
  | badLength (length : BitVec 4)
  deriving DecidableEq, Repr

/-- The state: the registers and slots of R10, then what is the model's own (parameters, port, free-value counter). -/
structure State where
  /-- R12: the running CRC. -/
  crc : BitVec 16
  /-- R13: index of the oldest live frame's slot. -/
  rd : Nat
  /-- R13: index of the slot the next accepted frame goes to. -/
  wr : Nat
  /-- R14: the last index-changing operation was an accepted push. -/
  low : Bool
  /-- R15: the frame slots. -/
  slots : Memory
  /-- R18: ticks since the last arming, clear or reset. -/
  ticks : Nat
  /-- R19: the five timeout flags. -/
  flags : BitVec 5
  /-- R5: the parameters; no step writes them. Model's own. -/
  cfg : Config
  /-- R7, R170: the agent whose operation is being performed. Model's own. -/
  issuer : Agent
  /-- R11, R40: what has been presented and not yet performed, oldest first. Model's own. -/
  pending : List Arrival
  /-- R54, R93: result and event of the last step. Model's own. -/
  out : Output
  /-- Number of free values drawn so far. Model's own. -/
  draws : Nat
  deriving DecidableEq, Repr

/-- What every meaning answers. -/
abbrev Out := Host.Outcome State Fault Refusal

/-- No result and no event. -/
def Output.quiet : Output := { result := .none, overflow := false }

/-- The block with parameters `c` after reset (R24, R185). DESIGN CHOICE (log entries 3 and 26): the unspecified accumulator is one
draw, which the register keeps until it is written. -/
def State.resetWith (c : Config) : State :=
  { crc := Config.freeCrc 0
    rd := 0
    wr := 0
    low := false
    slots := []
    ticks := 0
    flags := 0b00000
    cfg := c
    issuer := .foreground
    pending := []
    out := Output.quiet
    draws := 1 }

/-- The machine right after reset, at the reference parameters (R5, R24). -/
def State.reset : State := State.resetWith Config.reference

end Sys2Proof.Machine
end

