-- ==== Sys2Proof/Machine/Flags.lean ====
section
/-! DEFINITION. Flag and status computations: the five timeout flags and their thresholds (R5, R6, R19, R20), and the queue's
derived status (R16). -/

namespace Sys2Proof.Machine

open Sys2Proof

/-- The flags in index order (R19). -/
def allFlags : List Flag := [.lostCard, .devBoot, .devCalc, .timeout, .firstPing]

/-- The index of a flag, which is also its bit in FLAGS (R19). -/
def flagIndex : Flag → Nat
  | .lostCard => 0
  | .devBoot => 1
  | .devCalc => 2
  | .timeout => 3
  | .firstPing => 4

/-- A flag's threshold in ticks at scale K = 1 (R5, R112). -/
def baseThreshold : Flag → Nat
  | .lostCard => 62
  | .devBoot => 625
  | .devCalc => 30
  | .timeout => 4
  | .firstPing => 150

/-- The threshold table (R20): `K` times the reference counts (R6). -/
def threshold (c : Config) (f : Flag) : Nat := baseThreshold f * c.scale

/-- `FLAGS[f]` (R19): the flag is armed (R106). -/
def flagSet (flags : BitVec 5) (f : Flag) : Bool := flags.getLsbD (flagIndex f)

/-- `FLAGS[f] <- 1`. -/
def raiseFlag (flags : BitVec 5) (f : Flag) : BitVec 5 := flags ||| (1#5 <<< flagIndex f)

/-- `FLAGS[f] <- 0`. -/
def dropFlag (flags : BitVec 5) (f : Flag) : BitVec 5 := flags &&& ~~~(1#5 <<< flagIndex f)

/-- The comparisons of one tick (R105): each flag whose threshold equals the counter is cleared. -/
def expireFlags (c : Config) (ticks : Nat) (flags : BitVec 5) : BitVec 5 :=
  allFlags.foldl (fun fl f => if ticks = threshold c f then dropFlag fl f else fl) flags

/-- The counter after one more tick, modulo `2^W` (R18, R105). -/
def nextTick (c : Config) (ticks : Nat) : Nat :=
  match c.tickBits with
  | none => ticks + 1
  | some w => (ticks + 1) % 2 ^ w

/-- `empty` (R16). -/
def State.empty (s : State) : Bool := s.rd == s.wr && !s.low

/-- `full` (R16). -/
def State.full (s : State) : Bool := s.rd == s.wr && s.low

/-- `count` (R16): the number of live frames. -/
def State.count (s : State) : Nat :=
  if s.rd ≠ s.wr then (s.wr + s.cfg.capacity - s.rd) % s.cfg.capacity
  else if s.low then s.cfg.capacity
  else 0

/-- The slot index of `live(k)` (R16): `k = 0` is the oldest frame. -/
def State.liveIndex (s : State) (k : Nat) : Nat := (s.rd + k) % s.cfg.capacity

end Sys2Proof.Machine
end

