-- ==== Sys2Proof/Machine/Operands.lean ====
section
/-! DEFINITION. Operand forms and result words: the flag operand (format T, R55), the identifier packed and unpacked (R45–R47),
what RXQ.POP lets a reader see of a frame (R95), and the result formats (R56). Formats B, E, I and F are read by the decoder. -/

namespace Sys2Proof.Machine

open Sys2Proof

/-- The flag an index names (R19); 5 to 7 name none (R62). -/
def flagOfIndex (index : BitVec 3) : Option Flag :=
  match index.toNat with
  | 0 => some .lostCard
  | 1 => some .devBoot
  | 2 => some .devCalc
  | 3 => some .timeout
  | 4 => some .firstPing
  | _ => none

/-- The operand that names a flag (R55). -/
def flagOperand (f : Flag) : BitVec 3 := BitVec.ofNat 3 (flagIndex f)

/-- `(command << 17) | (responseBit << 16) | hash`, 32 bits (R47, R80). -/
def packId (command : BitVec 8) (responseBit : Bool) (hash : BitVec 16) : Carrier :=
  (command.setWidth 32 <<< 17) ||| ((BitVec.ofBool responseBit).setWidth 32 <<< 16) ||| hash.setWidth 32

/-- The four fields of an identifier (R47, R81); carrier bits 31..29 reach none of them. -/
def unpackId (id : Carrier) : IdFields :=
  { priority := ((id >>> 25) &&& 0xF#32).setWidth 4
    command := ((id >>> 17) &&& 0xFF#32).setWidth 8
    responseBit := ((id >>> 16) &&& 1#32) == 1#32
    hash := (id &&& 0xFFFF#32).setWidth 16 }

/-- The frame RXQ.POP returns for a slot's content (R91, R95): `id`, `length` and `data[0 .. length−1]` as stored, every
further byte the free one. A slot never written holds an unspecified record (R24): all of it is free. -/
def observedFrame (stored : Option Frame) (free : Frame) : Frame :=
  match stored with
  | none => free
  | some f => { f with data := Vector.ofFn fun k => if k.val < f.length.toNat then f.data[k] else free.data[k] }

/-- The part of a frame that has a defined content (R95). -/
def visible (f : Frame) : VisibleFrame :=
  { id := f.id, length := f.length, bytes := f.data.toList.take f.length.toNat }

/-- The fields packed in result format D (R56). -/
def packFields (f : IdFields) : BitVec 29 :=
  (f.priority ++ f.command ++ BitVec.ofBool f.responseBit ++ f.hash).setWidth 29

/-- The width of a result word (R56). -/
def resultWidth : Result → Nat
  | .none => 0
  | .crc _ => 16
  | .ident _ => 32
  | .fields _ => 29
  | .accepted _ => 1
  | .popped _ _ => 98
  | .set _ => 1

/-- The result word (R56), in a carrier as wide as the widest format, O. -/
def resultWord : Result → BitVec 98
  | .none => 0
  | .crc value => value.setWidth 98
  | .ident id => id.setWidth 98
  | .fields f => (packFields f).setWidth 98
  | .accepted flag => (BitVec.ofBool flag).setWidth 98
  | .popped found frame => (BitVec.ofBool found ++ packFrame frame).setWidth 98
  | .set flag => (BitVec.ofBool flag).setWidth 98

end Sys2Proof.Machine
end

