-- ==== Sys2Proof/Machine/Ops.lean ====
section
/-! DEFINITION. The shared operations: the answer of an operation, the context check (R170), the slot memory (R30), the CRC
step (R71), the reset event (R185), and serving the port (R11, R40, R168).

There is no exception entry and no return from one: "There is no trap mechanism" (R165) and "There is no trap-return
operation" (R166). An operation ends in a normal result, in the error result of RXQ.PUSH, or in a refusal (R160). -/

namespace Sys2Proof.Machine

open Sys2Proof

/-! ### The answer of an operation -/

/-- The operation is done: its result is delivered, and no event is emitted. -/
def answer (r : Result) (s : State) : Out := .next { s with out := { result := r, overflow := false } }

/-- The context an agent runs in (R170). -/
def agentContext : Agent → Context
  | .foreground => .foreground
  | .busProducer => .producer
  | .tickSource => .producer

/-- The context check (R163, R169, R170): it comes before the operand check and before everything else an operation does. -/
def inContext (c : Context) (s : State) (body : Out) : Out :=
  if agentContext s.issuer = c then body else .refused .wrongContext

/-- The flag operand of TMR.ARM and TMR.TEST (R107, R108): indices 5 to 7 are refused. -/
def withFlag (index : BitVec 3) (body : Flag → Out) : Out :=
  match flagOfIndex index with
  | some f => body f
  | none => .refused (.noSuchFlag index)

/-! ### The slot memory -/

/-- What a slot holds; `none` for a slot never written. -/
def slotGet (m : Memory) (i : Nat) : Option Frame :=
  match m with
  | [] => none
  | (j, f) :: rest => if i = j then some f else slotGet rest i

/-- Replace the whole frame record in slot `i` (§5.2 of 00_scope.md), keeping the canonical form. -/
def slotPut (m : Memory) (i : Nat) (f : Frame) : Memory :=
  match m with
  | [] => [(i, f)]
  | (j, g) :: rest =>
    if i < j then (i, f) :: (j, g) :: rest
    else if i = j then (i, f) :: rest
    else (j, g) :: slotPut rest i f

/-- A slot access at an index register (R30, R97): an index outside `0 .. N−1` names no slot. -/
def atSlot (i : Nat) (s : State) (body : Out) : Out :=
  if i < s.cfg.capacity then body else .fault (.noSuchSlot i)

/-- The index after `i`, modulo `N` (R97). -/
def nextIndex (c : Config) (i : Nat) : Nat := (i + 1) % c.capacity

/-- A free frame record (U1, U14, U22): the one the next draw gives. -/
def drawnFrame (s : State) : Frame := unpackFrame (Config.freeRecord s.draws)

/-! ### The CRC step -/

/-- The generator polynomial without its `x^16` term (R5). -/
def crcPoly : BitVec 16 := 0x1021

/-- The seed (R5). -/
def crcSeed : BitVec 16 := 0xFFFF

/-- One shift of the accumulator (R71): left by one, the polynomial XORed in when bit 15 was 1. -/
def crcShift (c : BitVec 16) : BitVec 16 :=
  if (c &&& 0x8000#16) != 0#16 then (c <<< 1) ^^^ crcPoly else c <<< 1

/-- `crcShift` done `n` times. -/
def crcShifts : Nat → BitVec 16 → BitVec 16
  | 0, c => c
  | n + 1, c => crcShifts n (crcShift c)

/-- Fold one byte into the accumulator, most significant bit first (R33, R71). -/
def crcStep (c : BitVec 16) (byte : Byte) : BitVec 16 :=
  crcShifts 8 (c ^^^ (byte.setWidth 16 <<< 8))

/-- The CRC of a byte string (R73). -/
def crc16 (bytes : List Byte) : BitVec 16 := bytes.foldl crcStep crcSeed

/-! ### The reset event -/

/-- The reset event (R24, R185): RXQ and TMR cleared, CRC and every slot unspecified. The parameters, what the environment has
presented, and the free values drawn are no state of the block and stay. DESIGN CHOICE (log entry 26): the accumulator is one draw,
which the register keeps until it is written. -/
def resetEvent (s : State) : State :=
  { State.resetWith s.cfg with
    crc := Config.freeCrc s.draws
    pending := s.pending
    draws := s.draws + 1 }

/-! ### Serving the port -/

/-- The requests of one instant, each with its agent. -/
def waiting (foreground bus tick : Option Request) : List (Agent × Request) :=
  (foreground.map (Prod.mk Agent.foreground)).toList ++ (bus.map (Prod.mk Agent.busProducer)).toList
    ++ (tick.map (Prod.mk Agent.tickSource)).toList

/-- Which of the waiting requests is performed now (R168): the only one, or else whichever the free values from draw `d` on
say. Every order is admitted. -/
def serve (d : Nat) : List (Agent × Request) → Option (Agent × Request)
  | [] => none
  | [x] => some x
  | x :: y :: rest => if Config.servedFirst d then some x else serve (d + 1) (y :: rest)

/-- The instant without the request of the agent that was served; gone when nothing is left of it. -/
def withdraw (a : Agent) (foreground bus tick : Option Request) (rest : List Arrival) : List Arrival :=
  match a, foreground, bus, tick with
  | .foreground, _, none, none => rest
  | .foreground, _, b, t => .requests none b t :: rest
  | .busProducer, none, _, none => rest
  | .busProducer, f, _, t => .requests f none t :: rest
  | .tickSource, none, none, _ => rest
  | .tickSource, f, b, _ => .requests f b none :: rest

/-- What one step finds at the port: nothing to perform, and the state it leaves, or a request and the state it is
performed in. -/
inductive Fetched where
  | idle (s : State)
  | perform (r : Request) (s : State)
  deriving DecidableEq, Repr

/-- The next thing the block does (R11, R40, R168, R185): the oldest arrival. With nothing presented it waits (R186). -/
def fetch (s : State) : Fetched :=
  match s.pending with
  | [] => .idle { s with out := Output.quiet }
  | .reset :: rest => .idle (resetEvent { s with pending := rest })
  | .requests f b t :: rest =>
    match serve s.draws (waiting f b t) with
    | none => .idle { s with pending := rest, out := Output.quiet }
    | some (a, r) =>
      .perform r { s with
        issuer := a
        pending := withdraw a f b t rest
        draws := s.draws + ((waiting f b t).length - 1) }

/-- The requests of one instant in which one agent alone asks. -/
def aloneFrom (a : Agent) (r : Request) : Arrival :=
  match a with
  | .foreground => .requests (some r) none none
  | .busProducer => .requests none (some r) none
  | .tickSource => .requests none none (some r)

/-- An agent that may issue the operation `op` (R60, R170). -/
def agentForOp (op : BitVec 8) : Agent :=
  match op.toNat with
  | 0x20 => .busProducer
  | 0x30 => .tickSource
  | _ => .foreground

end Sys2Proof.Machine
end

