-- ==== Sys2Proof/Machine/Codec.lean ====
section
/-! DEFINITION. The identifier codec family (R80, R81): pure functions, open to both contexts (R170). -/

namespace Sys2Proof.Machine

open Sys2Proof

/-- ID.ENCODE command, hash, responseBit (R80). -/
def execIdEncode (command : BitVec 8) (responseBit : Bool) (hash : BitVec 16) (s : State) : Out :=
  answer (.ident (packId command responseBit hash)) s

/-- ID.DECODE id (R81). -/
def execIdDecode (id : Carrier) (s : State) : Out :=
  answer (.fields (unpackId id)) s

end Sys2Proof.Machine
end

