-- ==== Sys2Proof/Machine/Crc.lean ====
section
/-! DEFINITION. The CRC family (R70–R72). -/

namespace Sys2Proof.Machine

open Sys2Proof

/-- CRC.INIT (R70). -/
def execCrcInit (s : State) : Out :=
  inContext .foreground s (answer .none { s with crc := crcSeed })

/-- CRC.UPDATE byte (R71). DESIGN CHOICE (log entry 26): before the first CRC.INIT the "unspecified" result is the step of the one
free value the register has held since the reset. -/
def execCrcUpdate (byte : Byte) (s : State) : Out :=
  inContext .foreground s (answer .none { s with crc := crcStep s.crc byte })

/-- CRC.READ (R72). DESIGN CHOICE (log entry 26): before the first CRC.INIT, two reads answer the same free value. -/
def execCrcRead (s : State) : Out :=
  inContext .foreground s (answer (.crc s.crc) s)

end Sys2Proof.Machine
end

