-- ==== Sys2Proof/Machine/Fifo.lean ====
section
/-! DEFINITION. The RX FIFO family (R90–R92). -/

namespace Sys2Proof.Machine

open Sys2Proof

/-- The error result of RXQ.PUSH (R90, R93): `accepted = 0` and the Overflow event, no state of the block changed. -/
def dropNewest (s : State) : Out := .next { s with out := { result := .accepted false, overflow := true } }

/-- RXQ.PUSH frame (R90): context, then length (R96, R169), then `full`. -/
def execRxqPush (frame : Frame) (s : State) : Out :=
  inContext .producer s <|
    if ¬ frame.lengthOk then .refused (.badLength frame.length)
    else if s.full then dropNewest s
    else
      atSlot s.wr s <|
        answer (.accepted true)
          { s with slots := slotPut s.slots s.wr frame, wr := nextIndex s.cfg s.wr, low := true }

/-- RXQ.POP (R91): each answer carries one free record, the bytes the spec leaves open (R95, U22). -/
def execRxqPop (s : State) : Out :=
  inContext .foreground s <|
    if s.empty then answer (.popped false (drawnFrame s)) { s with draws := s.draws + 1 }
    else
      atSlot s.rd s <|
        answer (.popped true (observedFrame (slotGet s.slots s.rd) (drawnFrame s)))
          { s with rd := nextIndex s.cfg s.rd, low := false, draws := s.draws + 1 }

/-- RXQ.CLEAR (R92): no slot is written. -/
def execRxqClear (s : State) : Out :=
  inContext .foreground s (answer .none { s with rd := 0, wr := 0, low := false })

end Sys2Proof.Machine
end

