-- ==== Sys2Proof/Machine/Timer.lean ====
section
/-! DEFINITION. The timeout family (R105, R107–R109). -/

namespace Sys2Proof.Machine

open Sys2Proof

/-- TMR.TICK (R105): increment first, then compare with the new value. -/
def execTmrTick (s : State) : Out :=
  inContext .producer s
    (answer .none
      { s with
        ticks := nextTick s.cfg s.ticks
        flags := expireFlags s.cfg (nextTick s.cfg s.ticks) s.flags })

/-- TMR.ARM flag (R107). -/
def execTmrArm (flag : BitVec 3) (s : State) : Out :=
  inContext .foreground s
    (withFlag flag fun f => answer .none { s with ticks := 0, flags := raiseFlag s.flags f })

/-- TMR.TEST flag (R108). -/
def execTmrTest (flag : BitVec 3) (s : State) : Out :=
  inContext .foreground s
    (withFlag flag fun f => answer (.set (flagSet s.flags f)) s)

/-- TMR.CLEAR (R109). -/
def execTmrClear (s : State) : Out :=
  inContext .foreground s (answer .none { s with ticks := 0, flags := 0b00000 })

end Sys2Proof.Machine
end

