-- ==== Sys2Proof/Machine/Dispatch.lean ====
section
/-! DEFINITION. One arm per operation of R60. -/

namespace Sys2Proof.Machine

open Sys2Proof

def exec (i : Instr) (s : State) : Host.Outcome State Fault Refusal :=
  match i with
  | .crcInit => Sys2Proof.Machine.execCrcInit s
  | .crcUpdate byte => Sys2Proof.Machine.execCrcUpdate byte s
  | .crcRead => Sys2Proof.Machine.execCrcRead s
  | .idEncode command responseBit hash => Sys2Proof.Machine.execIdEncode command responseBit hash s
  | .idDecode id => Sys2Proof.Machine.execIdDecode id s
  | .rxqPush frame => Sys2Proof.Machine.execRxqPush frame s
  | .rxqPop => Sys2Proof.Machine.execRxqPop s
  | .rxqClear => Sys2Proof.Machine.execRxqClear s
  | .tmrTick => Sys2Proof.Machine.execTmrTick s
  | .tmrArm flag => Sys2Proof.Machine.execTmrArm flag s
  | .tmrTest flag => Sys2Proof.Machine.execTmrTest flag s
  | .tmrClear => Sys2Proof.Machine.execTmrClear s

end Sys2Proof.Machine
end

