-- ==== Sys2Proof/Machine/Step.lean ====
section
/-! DEFINITION. One step: the port is served, the request decoded, the operation performed (R37, R40). -/

namespace Sys2Proof.Machine

open Sys2Proof

/-- Perform one request: an unassigned `op` is refused before anything else (R169). -/
def perform (r : Request) (s : State) : Out :=
  match decode r with
  | .error (.unassignedOp op) => .refused (.unassignedOp op)
  | .ok i => exec i s

/-- One indivisible step (R37). -/
def step (s : State) : Out :=
  match fetch s with
  | .idle t => .next t
  | .perform r t => perform r t

/-- The instruction of these bits presented to the block, alone and ahead of everything else that waits, by an agent that
may issue it. -/
def State.withFetchWord (s : State) (nbits w : Nat) : State :=
  { s with
    pending := aloneFrom (agentForOp (requestOfTableWord nbits w).op) (requestOfTableWord nbits w) :: s.pending }

end Sys2Proof.Machine
end

