-- ==== Sys2Proof/Machine/Composite.lean ====
section
/-! DEFINITION. The pseudo-operations of 44_composite.md, sequences of the block's operations that run in the foreground:
`crc_block` (R123), `wait_for` (R120, R121) and `block_for` (R122). They are no operations of the block. -/

namespace Sys2Proof.Machine

open Sys2Proof

/-- One operation issued by an agent. -/
def issue (a : Agent) (i : Instr) (s : State) : Out := exec i { s with issuer := a }

/-- Operations performed one after the other (R40); the first refusal or fault ends the run. -/
def runOps (ops : List (Agent × Instr)) (s : State) : Out :=
  match ops with
  | [] => .next s
  | (a, i) :: rest =>
    match issue a i s with
    | .next t => runOps rest t
    | .fault r => .fault r
    | .refused r => .refused r

/-- The expansion of `crc_block bytes` (R123). -/
def crcBlock (bytes : List Byte) : List (Agent × Instr) :=
  (.foreground, .crcInit) :: (bytes.map (fun b => (Agent.foreground, Instr.crcUpdate b)) ++ [(.foreground, .crcRead)])

/-- `k` occurrences of the periodic tick (R105). -/
def tickTimes (k : Nat) : List (Agent × Instr) := List.replicate k (.tickSource, .tmrTick)

/-- Where the expansion of `wait_for` stands (R120): the next operation it issues, or its result. -/
inductive WaitPhase where
  | arming
  | testing
  | popping
  | matched (f : Frame)
  | timedOut
  deriving DecidableEq, Repr

/-- The wait has returned (R120). -/
def WaitPhase.done : WaitPhase → Bool
  | .arming => false
  | .testing => false
  | .popping => false
  | .matched _ => true
  | .timedOut => true

/-- The foreground's reaction to TMR.TEST (R120): a clear flag ends the wait, and nothing more is popped. -/
def afterTest (r : Result) : WaitPhase :=
  match r with
  | .set true => .popping
  | _ => .timedOut

/-- The foreground's reaction to RXQ.POP (R120, R121): a frame that does not match is consumed and discarded. A predicate is
given what is visible of the frame and no byte at or beyond its length (R95). -/
def afterPop (predicate : VisibleFrame → Bool) (r : Result) : WaitPhase :=
  match r with
  | .popped true f => if predicate (visible f) then .matched f else .testing
  | _ => .testing

/-- The operation `wait_for` issues next; a wait that has returned issues none. -/
def waitOp (flag : Flag) : WaitPhase → Option Instr
  | .arming => some (.tmrArm (flagOperand flag))
  | .testing => some (.tmrTest (flagOperand flag))
  | .popping => some .rxqPop
  | .matched _ => none
  | .timedOut => none

/-- The phase after the operation of a phase answered `r`. -/
def nextPhase (predicate : VisibleFrame → Bool) (p : WaitPhase) (r : Result) : WaitPhase :=
  match p with
  | .arming => .testing
  | .testing => afterTest r
  | .popping => afterPop predicate r
  | .matched f => .matched f
  | .timedOut => .timedOut

/-- One event of an interleaving of the three agents while a wait runs (R168): the foreground's next operation, a frame
pushed, or a tick. -/
inductive Turn where
  | foreground
  | push (f : Frame)
  | tick
  deriving DecidableEq, Repr

/-- One event of the interleaving; `none` when the block refuses or faults. -/
def waitTurn (flag : Flag) (predicate : VisibleFrame → Bool) (turn : Turn) (w : WaitPhase × State) :
    Option (WaitPhase × State) :=
  match turn with
  | .push f =>
    match issue .busProducer (.rxqPush f) w.2 with
    | .next t => some (w.1, t)
    | _ => none
  | .tick =>
    match issue .tickSource .tmrTick w.2 with
    | .next t => some (w.1, t)
    | _ => none
  | .foreground =>
    match waitOp flag w.1 with
    | none => some w
    | some i =>
      match issue .foreground i w.2 with
      | .next t => some (nextPhase predicate w.1 t.out.result, t)
      | _ => none

/-- `wait_for flag, predicate` along one interleaving of the agents (R120). It starts in the phase `arming`. -/
def waitFor (flag : Flag) (predicate : VisibleFrame → Bool) (turns : List Turn) (w : WaitPhase × State) :
    Option (WaitPhase × State) :=
  match turns with
  | [] => some w
  | turn :: rest =>
    match waitTurn flag predicate turn w with
    | none => none
    | some w' => waitFor flag predicate rest w'

/-- `block_for flag` (R122): a wait whose predicate is always false. -/
def blockFor (flag : Flag) (turns : List Turn) (w : WaitPhase × State) : Option (WaitPhase × State) :=
  waitFor flag (fun _ => false) turns w

/-- The ticks of an interleaving. -/
def countTicks (turns : List Turn) : Nat := turns.count .tick

end Sys2Proof.Machine
end

