-- ==== Sys2Proof/Machine/Environment.lean ====
section
/-! DEFINITION. What 30_encoding.md §3, 44_composite.md R125 and 45_usage_context.md record of the environment that drives the
block, as plain functions: constants, payload layouts, wait predicates, handshakes, padding, block arithmetic. None of it is state or
behaviour of the block (R3, R130), and no operation uses it. -/

namespace Sys2Proof.Machine

open Sys2Proof

/-! ### Constants (R51–R53) -/

/-- Command values (R51). -/
def cmdSystem : BitVec 8 := 0x00
def cmdLocoDiscovery : BitVec 8 := 0x01
def cmdLocoWriteConfig : BitVec 8 := 0x08
def cmdAccSwitch : BitVec 8 := 0x0B
def cmdPing : BitVec 8 := 0x18
def cmdBootldCan : BitVec 8 := 0x1B
def cmdCfgRequest : BitVec 8 := 0x20
def cmdCfgStream : BitVec 8 := 0x21

/-- Sub-command bytes (R52). -/
def subReset : Byte := 0x80
def subStart : Byte := 0x11
def subBlockNumber : Byte := 0x44
def subCrc : Byte := 0x88
def subReboot : Byte := 0xF5

/-- Device-type bytes (R53). -/
def typeGfpCs2 : Byte := 0x00
def typeGfpMs2 : Byte := 0x10
def typeControlUnitBasic : Byte := 0x20
def typeControlUnitMs2 : Byte := 0x32
def typeWireless : Byte := 0xE0
def typeMaster : Byte := 0xFF

/-! ### Payloads, most significant byte first (R34) -/

/-- The two bytes of a 16-bit quantity, high byte first. -/
def bytes16 (v : BitVec 16) : List Byte := [v.extractLsb' 8 8, v.extractLsb' 0 8]

/-- The four bytes of a 32-bit quantity, high byte first. -/
def bytes32 (v : BitVec 32) : List Byte :=
  [v.extractLsb' 24 8, v.extractLsb' 16 8, v.extractLsb' 8 8, v.extractLsb' 0 8]

/-- What the handshake reads from a boot-init or ping response (R134). -/
structure PeerIdentity where
  uid : BitVec 32
  sversion : BitVec 16
  deviceType : Byte
  deriving DecidableEq, Repr

/-- R134: the extraction reads all eight payload bytes and so presupposes `length = 8` (R195). -/
def peerIdentity (f : Frame) : Option PeerIdentity :=
  if f.length = 8#4 then
    some { uid := f.data[0] ++ f.data[1] ++ f.data[2] ++ f.data[3]
           sversion := f.data[4] ++ f.data[5]
           deviceType := f.data[7] }
  else none

/-- `resp_ping` (R135). -/
def respPingPayload (uid : BitVec 32) (sversion : BitVec 16) : List Byte :=
  bytes32 uid ++ bytes16 sversion ++ [typeMaster, typeMaster]

/-- The block-number command (R136). -/
def blockNumberPayload (uid : BitVec 32) (blockNumber : Byte) : List Byte :=
  bytes32 uid ++ [subBlockNumber, blockNumber]

/-- The bootloader's CRC announcement (R137). -/
def crcAnnouncePayload (uid : BitVec 32) (crc : BitVec 16) : List Byte :=
  bytes32 uid ++ [subCrc] ++ bytes16 crc

/-- The config stream's CRC announcement (R138). -/
def configCrcPayload (byteCount crc : BitVec 16) : List Byte :=
  [0x00, 0x00] ++ bytes16 byteCount ++ bytes16 crc

/-- The fixed 8-byte name of a config request (R139). -/
def configName (f : Frame) : Option (List Byte) :=
  if f.length = 8#4 then some f.data.toList else none

/-! ### The Device record and the capability table (R141, R145, R148) -/

/-- R141. -/
structure Device where
  deviceType : Byte
  hash : BitVec 16
  sversion : BitVec 16
  uid : BitVec 32
  deriving DecidableEq, Repr

/-- The record at the start of every handshake (R141, the source's recommendation). -/
def Device.fresh : Device := { deviceType := 0, hash := 0, sversion := 0, uid := 0 }

/-- "Populated incrementally during handshake via bitwise OR-accumulation" (R141); the hash comes from the identifier (R134). -/
def accumulateDevice (d : Device) (p : PeerIdentity) (hash : BitVec 16) : Device :=
  { deviceType := d.deviceType ||| p.deviceType
    hash := d.hash ||| hash
    sversion := d.sversion ||| p.sversion
    uid := d.uid ||| p.uid }

/-- A request name: at most eight ASCII characters (R145). -/
structure RequestName where
  chars : List Byte
  short : chars.length ≤ 8
  ascii : ∀ c ∈ chars, c.toNat < 128
  deriving DecidableEq, Repr

/-- An entry of the capability table (R145). DESIGN CHOICE (log entry 32): what a handler is belongs to the excluded software and
is a parameter of the record. -/
structure CapabilityEntry (Handler : Type) where
  requestName : RequestName
  isTransfer : Bool
  pendingSubRequests : Nat
  localFileName : List Byte
  handler : Handler
  deriving DecidableEq, Repr

/-- "Looked up by exact name match; first match wins" (R145). DESIGN CHOICE (log entry 29): the byte lists are compared as they
are, so that an entry of fewer than eight characters never equals an 8-byte field; how a shorter name compares with the field is
not stated (R139, N41). -/
def lookupCapability {Handler : Type} (table : List (CapabilityEntry Handler)) (name : List Byte) :
    Option (CapabilityEntry Handler) :=
  table.find? (fun e => e.requestName.chars == name)

/-- R148: the dispatcher's loop ends once every version-only entry has been serviced and no transfer is in progress. -/
def dispatcherDone {Handler : Type} (table : List (CapabilityEntry Handler)) (served : List (List Byte)) (inProgress : Bool) :
    Bool :=
  !inProgress && table.all (fun e => e.pendingSubRequests != 0 || served.contains e.requestName.chars)

/-! ### Wait predicates (R121, R125)

A predicate is a function of what is visible of a frame: it cannot read a byte at or beyond the length (R95, R121). -/

/-- The identifier fields a predicate tests (R121). -/
def frameFields (f : VisibleFrame) : IdFields := unpackId (f.id.setWidth 32)

/-- `command == BOOT_LD`. -/
def isBootLd (f : VisibleFrame) : Bool := (frameFields f).command == cmdBootldCan

/-- `command == PING && responseBit`. -/
def isPingResponse (f : VisibleFrame) : Bool := (frameFields f).command == cmdPing && (frameFields f).responseBit

/-- "An unsolicited ping" (R125, R144 b). DESIGN CHOICE (log entry 28): the command alone is tested; whether the peer's own
ping carries the response bit is not stated. -/
def isPing (f : VisibleFrame) : Bool := (frameFields f).command == cmdPing

/-- `command == CFG_REQUEST`. DESIGN CHOICE (log entry 27): the 8-byte payload named beside it is not tested here. -/
def isCfgRequest (f : VisibleFrame) : Bool := (frameFields f).command == cmdCfgRequest

/-- The uses of `wait_for` (R125), one constructor per row. -/
inductive WaitUse where
  | gfpBootInit
  | gfpBootStart
  | gfpPing
  | ms2FirstAnnounce
  | ms2SecondAnnounce
  | ms2Ping
  | sessionDebounce
  | sessionPing
  | dispatcher
  | blockNumberAck (number : Byte)
  | blockCrcAck
  | configNextRequest (finalBlock : Bool)
  deriving DecidableEq, Repr

/-- The flag of each use (R125); `none` where the source does not state one. -/
def waitUseFlag : WaitUse → Option Flag
  | .gfpBootInit => some .timeout
  | .gfpBootStart => some .devCalc
  | .gfpPing => some .timeout
  | .ms2FirstAnnounce => some .devBoot
  | .ms2SecondAnnounce => some .devCalc
  | .ms2Ping => some .timeout
  | .sessionDebounce => some .firstPing
  | .sessionPing => none
  | .dispatcher => some .devBoot
  | .blockNumberAck _ => some .timeout
  | .blockCrcAck => some .devCalc
  | .configNextRequest _ => none

/-- The predicate of each use (R125). What "payload indicates CRC-ack" means is not in the source (N39): an argument.
DESIGN CHOICE (log entry 27): the row of boot-init tests the command, as its formula does; whether "expecting a response
frame" beside it makes the response bit part of the predicate, R125 and R142 do not settle. -/
def waitUsePredicate (indicatesCrcAck : VisibleFrame → Bool) (u : WaitUse) (f : VisibleFrame) : Bool :=
  match u with
  | .gfpBootInit => isBootLd f
  | .gfpBootStart => false
  | .gfpPing => isPingResponse f
  | .ms2FirstAnnounce => isBootLd f
  | .ms2SecondAnnounce => isBootLd f
  | .ms2Ping => isPingResponse f
  | .sessionDebounce => false
  | .sessionPing => isPing f
  | .dispatcher => isCfgRequest f
  | .blockNumberAck _ => isBootLd f
  | .blockCrcAck => isBootLd f && indicatesCrcAck f
  | .configNextRequest _ => isCfgRequest f

/-- What the engine does once a wait has returned (R125): the next step, the normal end of the transfer the wait belongs to, or
its failure. -/
inductive WaitVerdict where
  | goOn
  | endOfTransfer
  | abort
  | notStated
  deriving DecidableEq, Repr

/-- The last column of R125: what `Err(Timeout)` means at each use. -/
def onTimeout : WaitUse → WaitVerdict
  | .gfpBootInit => .abort
  | .gfpBootStart => .goOn
  | .gfpPing => .abort
  | .ms2FirstAnnounce => .abort
  | .ms2SecondAnnounce => .goOn
  | .ms2Ping => .abort
  | .sessionDebounce => .goOn
  | .sessionPing => .notStated
  | .dispatcher => .abort
  | .blockNumberAck _ => .abort
  | .blockCrcAck => .abort
  | .configNextRequest finalBlock => if finalBlock then .endOfTransfer else .abort

/-- The block number an acknowledgement echoes, `data[5]` (R136); `none` when the frame is too short to hold it. DEDUCED (log
entry 31): no other byte of the payload is compared. -/
def echoedBlockNumber (f : VisibleFrame) : Option Byte := f.bytes[5]?

/-- The verdict on a wait's answer (`none`: `Err(Timeout)`): after the block-number ACK "the echoed block number is compared"
and a mismatch aborts the whole transfer (R125, R147). -/
def waitVerdict (u : WaitUse) (answer : Option VisibleFrame) : WaitVerdict :=
  match answer with
  | none => onTimeout u
  | some f =>
    match u with
    | .blockNumberAck number => if echoedBlockNumber f = some number then .goOn else .abort
    | _ => .goOn

/-! ### Session and handshakes (R133, R142–R144) -/

/-- The session states (R133). -/
inductive SessionState where
  | disconnected
  | identifying
  | ms2Handshake
  | gfpHandshake
  | dispatching
  | idle
  | transferring
  | resetting
  | done
  | failed
  deriving DecidableEq, Repr

/-- The arrows of R133, and back to `Disconnected` from a handshake and from a transfer that fails (R164). DESIGN CHOICE (log
entry 30): the same arrow from `Dispatching`; R164 names no dispatcher failure, and R144 sends a system reset before it branches
on the dispatch result. DESIGN CHOICE (log entry 30): no arrow from `Resetting` back to a handshake; R133 ends it in Done or Error,
and R144 (d), (e) re-runs the handshake after the system reset on REBOOT and FLASHUPD, which `sessionBranch` answers. -/
def SessionState.successors : SessionState → List SessionState
  | .disconnected => [.identifying]
  | .identifying => [.ms2Handshake, .gfpHandshake]
  | .ms2Handshake => [.dispatching, .disconnected]
  | .gfpHandshake => [.dispatching, .disconnected]
  | .dispatching => [.idle, .transferring, .disconnected]
  | .idle => [.resetting]
  | .transferring => [.resetting, .disconnected]
  | .resetting => [.done, .failed]
  | .done => []
  | .failed => []

/-- What the engine sends in a handshake; the bytes of boot-init and boot-start are not in the source (R142). -/
inductive SentFrame where
  | bootInit
  | bootStart
  | ping
  deriving DecidableEq, Repr

/-- One step of a handshake. -/
inductive HandshakeStep where
  | send (frame : SentFrame)
  | wait (use : WaitUse)
  | populate
  | resetDevice
  deriving DecidableEq, Repr

/-- The GFP handshake (R142). The Device record is reset at the start (R141, decision D32). -/
def gfpHandshake : List HandshakeStep :=
  [.resetDevice, .send .bootInit, .wait .gfpBootInit, .populate, .send .bootStart, .wait .gfpBootStart, .send .ping, .wait .gfpPing]

/-- The MS2 handshake (R143). The Device record is reset at the start (R141, decision D32). -/
def ms2Handshake : List HandshakeStep :=
  [.resetDevice, .wait .ms2FirstAnnounce, .wait .ms2SecondAnnounce, .send .ping, .wait .ms2Ping, .populate]

/-- A handshake driven by what its waits answered, in order (`none`: `Err(Timeout)`), `last` the frame matched last, `d`
the Device record as it was left. `none` when it aborts (R142, R143) or has not ended. -/
def runHandshake (steps : List HandshakeStep) (answers : List (Option Frame)) (last : Option Frame) (d : Device) :
    Option Device :=
  match steps with
  | [] => some d
  | .send _ :: rest => runHandshake rest answers last d
  | .resetDevice :: rest => runHandshake rest answers last Device.fresh
  | .wait use :: rest =>
    match answers with
    | [] => none
    | answer :: more =>
      match waitVerdict use (answer.map visible) with
      | .goOn => runHandshake rest more (answer.orElse fun _ => last) d
      | .endOfTransfer => some d
      | .abort => none
      | .notStated => none
  | .populate :: rest =>
    match last with
    | none => none
    | some f =>
      match peerIdentity f with
      | none => none
      | some p => runHandshake rest answers last (accumulateDevice d p (frameFields (visible f)).hash)

/-- What the dispatcher hands up (R144, R148); only success has a number in the source. -/
inductive DispatchResult where
  | success
  | reboot
  | flashUpd
  | other
  deriving DecidableEq, Repr

/-- What the session loop does next (R144 e). -/
inductive SessionBranch where
  | stop
  | handshakeAndLoop
  | handshakeReflashAndLoop
  | abort
  deriving DecidableEq, Repr

/-- The branch on the dispatch result (R144 e). -/
def sessionBranch : DispatchResult → SessionBranch
  | .success => .stop
  | .reboot => .handshakeAndLoop
  | .flashUpd => .handshakeReflashAndLoop
  | .other => .abort

/-! ### Padding and block arithmetic (R146, R147, R150) -/

/-- The length rounded up to a multiple of 8. -/
def roundUp8 (n : Nat) : Nat := 8 * ((n + 7) / 8)

/-- A byte stream padded to a multiple of 8. Whole sub-chunks have 32 bytes, so only the last, short one is padded (DEDUCED). -/
def padTo8 (fill : Byte) (bytes : List Byte) : List Byte :=
  bytes ++ List.replicate (roundUp8 bytes.length - bytes.length) fill

/-- The bytes of one bootloader block as they are sent and folded (R146). -/
def bootloaderStream (bytes : List Byte) : List Byte := padTo8 0xFF bytes

/-- The bytes of one config-stream block as they are folded (R150). -/
def configStream (bytes : List Byte) : List Byte := padTo8 0x00 bytes

/-- `blockCount` of the bootloader transfer (R147). -/
def bootBlockCount (fileSize blockSize magic : Nat) : Nat := fileSize / blockSize + magic

/-- The block numbers and seek positions the bootloader transfer visits (R147); the literal formula goes below zero. -/
def bootVisits (fileSize blockSize magic : Nat) : List (Nat × Int) :=
  (List.range (bootBlockCount fileSize blockSize magic + 1)).map fun k =>
    (bootBlockCount fileSize blockSize magic - k, (fileSize / blockSize * blockSize : Nat) - (k * blockSize : Nat))

/-- `blockCount` of the config stream (R150). -/
def configBlockCount (fileSize : Nat) : Nat := (fileSize + 1023) / 1024

end Sys2Proof.Machine
end

