-- ==== Sys2Proof/Safety.lean ====
section
/-! DEFINITION. What claims are stated in: the block's invariant (R13, R17, R21, R49), the domain and the environment's
contract (R163, R7, R102), the abstract queue (R98), and units' parts of the state (R8). -/

namespace Sys2Proof.Safety

open Sys2Proof Sys2Proof.Machine

/-- Both indices name slots (R13). -/
abbrev IndicesOk (s : State) : Prop := s.rd < s.cfg.capacity ∧ s.wr < s.cfg.capacity

/-- The slot memory is canonical, holds only existing slots and only frames the queue accepts (R30, R49). -/
abbrev SlotsOk (s : State) : Prop :=
  s.slots.wf ∧ ∀ p ∈ s.slots, p.1 < s.cfg.capacity ∧ p.2.lengthOk

/-- Every live frame has been written (R15, R16). -/
abbrev LiveWritten (s : State) : Prop := ∀ k < s.count, (slotGet s.slots (s.liveIndex k)).isSome

/-- Every set flag's window is still open (R21). -/
abbrev WindowsOpen (s : State) : Prop :=
  ∀ f ∈ allFlags, flagSet s.flags f = true → s.ticks < threshold s.cfg f

/-- The counter fits its width (R18). -/
abbrev TicksFit (s : State) : Prop := s.cfg.tickBits.all (fun w => decide (s.ticks < 2 ^ w)) = true

/-- The invariant of the block. -/
abbrev Invariant (s : State) : Prop :=
  s.cfg.Valid ∧ IndicesOk s ∧ SlotsOk s ∧ LiveWritten s ∧ WindowsOpen s ∧ TicksFit s

/-- The contexts R170 allows an operation. -/
def contextAllowed (c : Context) : Instr → Bool
  | .rxqPush _ => c == .producer
  | .tmrTick => c == .producer
  | .idEncode _ _ _ => true
  | .idDecode _ => true
  | .crcInit => c == .foreground
  | .crcUpdate _ => c == .foreground
  | .crcRead => c == .foreground
  | .rxqPop => c == .foreground
  | .rxqClear => c == .foreground
  | .tmrArm _ => c == .foreground
  | .tmrTest _ => c == .foreground
  | .tmrClear => c == .foreground

/-- A request inside the domain the spec defines: an assigned `op`, the right context, operands in range (R163). -/
def requestInDomain (a : Agent) (r : Request) : Bool :=
  match decode r with
  | .error _ => false
  | .ok i => contextAllowed (agentContext a) i && i.wellFormed

/-- An arrival whose requests are all inside the domain. -/
def arrivalInDomain : Arrival → Bool
  | .reset => true
  | .requests f b t =>
    f.all (requestInDomain .foreground) && b.all (requestInDomain .busProducer) && t.all (requestInDomain .tickSource)

/-- Everything presented is inside the domain. -/
abbrev DomainKept (s : State) : Prop := ∀ a ∈ s.pending, arrivalInDomain a = true

/-- The duty of each agent (R7, R102, R167): there is one producer of frames, the bus producer, and one source of ticks. What
else a context allows, each of its agents may issue (R170). -/
def agentMayIssue (a : Agent) (i : Instr) : Bool :=
  contextAllowed (agentContext a) i &&
    match i with
    | .rxqPush _ => a == .busProducer
    | .tmrTick => a == .tickSource
    | _ => true

/-- A request inside the domain that is its agent's to make. -/
def requestInContract (a : Agent) (r : Request) : Bool :=
  match decode r with
  | .error _ => false
  | .ok i => agentMayIssue a i && i.wellFormed

/-- An arrival whose requests are all their agents' to make. -/
def arrivalInContract : Arrival → Bool
  | .reset => true
  | .requests f b t =>
    f.all (requestInContract .foreground) && b.all (requestInContract .busProducer) && t.all (requestInContract .tickSource)

/-- The environment keeps the contract: the domain, and each agent its duty. -/
abbrev ContractKept (s : State) : Prop := ∀ a ∈ s.pending, arrivalInContract a = true

/-- The request asks for an operation of a kind. -/
def asksFor (kind : Instr → Bool) (r : Request) : Bool :=
  match decode r with
  | .ok i => kind i
  | .error _ => false

/-- How many requests of an arrival ask for an operation of a kind. -/
def countRequests (kind : Instr → Bool) : Arrival → Nat
  | .reset => 0
  | .requests f b t => ([f, b, t].filterMap id).countP (asksFor kind)

/-- A push; and an operation that takes frames out of the queue (R102: the producer's and the consumer's side). -/
def isPush : Instr → Bool
  | .rxqPush _ => true
  | _ => false
def isConsume : Instr → Bool
  | .rxqPop => true
  | .rxqClear => true
  | _ => false

/-- The abstract queue `live(0), …, live(count−1)` (R98); `none` stands for a slot never written. -/
def queue (s : State) : List (Option Frame) :=
  (List.range s.count).map (fun k => slotGet s.slots (s.liveIndex k))

/-- The operations of the RXQ unit (R8). -/
inductive QueueOp where
  | push (f : Frame)
  | pop
  | clear
  deriving DecidableEq, Repr

/-- The operation and its agent (R170). -/
def queueInstr : QueueOp → Agent × Instr
  | .push f => (.busProducer, .rxqPush f)
  | .pop => (.foreground, .rxqPop)
  | .clear => (.foreground, .rxqClear)

/-- What a run of queue operations has done since the last RXQ.CLEAR (R41): the frames accepted and the frames delivered,
in order, and the state reached. -/
structure QueueRun where
  accepted : List Frame
  delivered : List Frame
  state : State
  deriving DecidableEq, Repr

/-- One queue operation, recorded: an accepted push, a delivered frame, a clear that starts anew. -/
def recordQueueOp (q : QueueRun) (op : QueueOp) (t : State) : QueueRun :=
  match op, t.out.result with
  | .push f, .accepted true => { q with accepted := q.accepted ++ [f], state := t }
  | .pop, .popped true f => { q with delivered := q.delivered ++ [f], state := t }
  | .clear, _ => { accepted := [], delivered := [], state := t }
  | _, _ => { q with state := t }

/-- A run of queue operations in the order given (R40); `none` when the block refuses or faults. -/
def runQueue (ops : List QueueOp) (q : QueueRun) : Option QueueRun :=
  match ops with
  | [] => some q
  | op :: rest =>
    match issue (queueInstr op).1 (queueInstr op).2 q.state with
    | .next t => runQueue rest (recordQueueOp q op t)
    | _ => none

/-- The CRC unit's part of the state (R8). -/
abbrev sameCrc (s t : State) : Prop := t.crc = s.crc

/-- The RXQ unit's part of the state (R8). -/
abbrev sameQueue (s t : State) : Prop := t.rd = s.rd ∧ t.wr = s.wr ∧ t.low = s.low ∧ t.slots = s.slots

/-- The TMR unit's part of the state (R8). -/
abbrev sameTimer (s t : State) : Prop := t.ticks = s.ticks ∧ t.flags = s.flags

/-- The parameters, the port's input side and the issuer: what no operation writes. -/
abbrev samePort (s t : State) : Prop := t.cfg = s.cfg ∧ t.issuer = s.issuer ∧ t.pending = s.pending

/-- Two blocks that differ only in the width of the counter and in how far it has counted with no window open: the second
has the unbounded counter of R114. -/
abbrev sameUpToWidth (s u : State) : Prop :=
  u.cfg = { s.cfg with tickBits := none } ∧
  s = { u with cfg := s.cfg, ticks := s.ticks } ∧
  s.ticks = (match s.cfg.tickBits with | none => u.ticks | some w => u.ticks % 2 ^ w)

end Sys2Proof.Safety
end

