-- ==== Sys2Proof/Certificates/Slice0/Obligations.lean ====
section
/-! DEFINITION. The statements for the provers. Each docstring names the rule of spec/ it formalises, and, where a clause
rests on a decision of the spec or of the model, that decision. -/

open Sys2Proof Sys2Proof.Machine Sys2Proof.Safety

/-! ### Encoding -/

/-- R54, R55, R60: decoding the request that presents an operation gives the operation back, every operand at every value. -/
def Obligations.DecodeOfEncode : Prop :=
  ∀ i : Instr, decode (encode i) = .ok i

/-- R55, R60, R64: a request the port can carry that decodes is the one encoding of what it decodes to. -/
def Obligations.EncodeOfDecode : Prop :=
  ∀ (r : Request) (i : Instr), r.Fits → decode r = .ok i → encode i = r

/-- R61, R62, R163: the decoder accepts exactly the twelve `op` values whatever the argument, and a request with any other
`op` is refused by that name, from every agent and before anything else is looked at (R169). -/
def Obligations.UnassignedOpsRefused : Prop :=
  (∀ r : Request, (∃ i, decode r = .ok i) ↔ r.op ∈ assignedOps) ∧
  (∀ (r : Request) (s t : State), fetch s = .perform r t → r.op ∉ assignedOps →
    step s = .refused (.unassignedOp r.op))

/-- R48: the packing of the frame record loses nothing in either direction. -/
def Obligations.FrameRecordRoundTrip : Prop :=
  (∀ f : Frame, unpackFrame (packFrame f) = f) ∧ (∀ w : BitVec 97, packFrame (unpackFrame w) = w)

/-- Words written out from R48, R55 and R60 (vectors V-ID-1 and P5): a sanity statement. -/
def Obligations.SpecWordsDecode : Prop :=
  decode { op := 0x01, arg := 0x31 } = .ok (.crcUpdate 0x31) ∧
  decode { op := 0x10, arg := 0x0314711 } = .ok (.idEncode 0x18 true 0x4711) ∧
  decode { op := 0x20, arg := 0x0030471110100000000000000 }
    = .ok (.rxqPush { id := 0x00304711, length := 1, data := #v[1, 0, 0, 0, 0, 0, 0, 0] }) ∧
  decode { op := 0x31, arg := 3 } = .ok (.tmrArm 3)

/-! ### CRC unit -/

/-- R70: CRC.INIT seeds the accumulator and changes nothing else. -/
def Obligations.CrcInitSeeds : Prop :=
  ∀ s : State, agentContext s.issuer = .foreground →
    exec .crcInit s = .next { s with crc := 0xFFFF, out := { result := .none, overflow := false } }

/-- R71: CRC.UPDATE XORs the byte into the top half of the accumulator and shifts eight times, the polynomial XORed in
whenever bit 15 is shifted out as 1; nothing else changes. -/
def Obligations.CrcUpdateFoldsByte : Prop :=
  ∀ (byte : Byte) (s : State), agentContext s.issuer = .foreground →
    exec (.crcUpdate byte) s = .next { s with
      crc := (fun c : BitVec 16 => if c.msb then (c <<< 1) ^^^ 0x1021#16 else c <<< 1)^[8] (s.crc ^^^ (byte ++ 0#8))
      out := { result := .none, overflow := false } }

/-- R72: CRC.READ answers the register itself and changes nothing. -/
def Obligations.CrcReadAnswersRegister : Prop :=
  ∀ s : State, agentContext s.issuer = .foreground →
    exec .crcRead s = .next { s with out := { result := .crc s.crc, overflow := false } }

/-- R73: `crc_block` answers `crc16` of its bytes whatever the accumulator held before, and leaves the other units alone;
`crc16` is the fold R73 defines, of the value CRC.UPDATE assigns. -/
def Obligations.CrcBlockAnswersCrc16 : Prop :=
  (∀ (b : Byte) (s : State), agentContext s.issuer = .foreground →
    exec (.crcUpdate b) s = .next { s with crc := crcStep s.crc b, out := { result := .none, overflow := false } }) ∧
  (∀ (bytes : List Byte) (s : State),
    runOps (crcBlock bytes) s = .next { s with
      crc := crc16 bytes
      issuer := .foreground
      out := { result := .crc (crc16 bytes), overflow := false } }) ∧
  crc16 [] = 0xFFFF ∧
  (∀ (bytes : List Byte) (b : Byte), crc16 (bytes ++ [b]) = crcStep (crc16 bytes) b)

/-- R74 law 4. -/
def Obligations.CrcStepLinear : Prop :=
  ∀ (c d : BitVec 16) (a b : Byte), crcStep (c ^^^ d) (a ^^^ b) = crcStep c a ^^^ crcStep d b

/-- R74 law 3. -/
def Obligations.CrcStepByteTable : Prop :=
  ∀ (c : BitVec 16) (b : Byte), crcStep c b = (c <<< 8) ^^^ crcStep 0 (c.extractLsb' 8 8 ^^^ b)

/-- R74 law 5. -/
def Obligations.CrcStepBijectiveInState : Prop :=
  ∀ b : Byte, Function.Bijective (fun c : BitVec 16 => crcStep c b)

/-- R74 law 6. -/
def Obligations.CrcStepInjectiveInByte : Prop :=
  ∀ c : BitVec 16, Function.Injective (fun b : Byte => crcStep c b)

/-- R75: two byte strings of one length that differ in exactly one byte have different CRCs. -/
def Obligations.CrcDetectsOneChangedByte : Prop :=
  ∀ (before after : List Byte) (a b : Byte), a ≠ b → crc16 (before ++ a :: after) ≠ crc16 (before ++ b :: after)

/-- R74 law 7: a message followed by its own CRC, high byte first, leaves 0. -/
def Obligations.CrcResidueIsZero : Prop :=
  ∀ bytes : List Byte, crc16 (bytes ++ bytes16 (crc16 bytes)) = 0

/-- R74 law 2, both forms: with bit `i` the coefficient of `x^i` over GF(2), a step multiplies by `x^8` modulo
`x^16 + x^12 + x^5 + 1`, and the CRC of a message of `n` bytes is `(0xFFFF · x^(8n) + M · x^16)` modulo it. -/
def Obligations.CrcIsPolynomialRemainder : Prop :=
  let poly : (n : Nat) → BitVec n → Polynomial (ZMod 2) := fun n v =>
    ∑ i ∈ Finset.range n, if v.getLsbD i then Polynomial.X ^ i else 0
  let generator : Polynomial (ZMod 2) :=
    Polynomial.X ^ 16 + Polynomial.X ^ 12 + Polynomial.X ^ 5 + 1
  (∀ (c : BitVec 16) (b : Byte),
    poly 16 (crcStep c b) = (poly 16 (c ^^^ (b ++ 0#8)) * Polynomial.X ^ 8) %ₘ generator) ∧
  (∀ bytes : List Byte,
    poly 16 (crc16 bytes) =
      (poly 16 0xFFFF * Polynomial.X ^ (8 * bytes.length) +
        bytes.foldl (fun m b => m * Polynomial.X ^ 8 + poly 8 b) 0 * Polynomial.X ^ 16) %ₘ generator)

/-- R12: the accumulator is written only by CRC.INIT, which sets it to 0xFFFF, and by CRC.UPDATE, one byte at a time;
CRC.READ answers it and leaves it. -/
def Obligations.CrcWrittenOnlyByInitAndUpdate : Prop :=
  ∀ (i : Instr) (s t : State), exec i s = .next t →
    (t.crc ≠ s.crc → i = .crcInit ∨ ∃ b, i = .crcUpdate b) ∧
    (i = .crcInit → t.crc = 0xFFFF) ∧
    (∀ b, i = .crcUpdate b → t.crc = crcStep s.crc b) ∧
    (i = .crcRead → t.out.result = .crc s.crc ∧ t.crc = s.crc)

/-! ### Identifier codec -/

/-- R80: ID.ENCODE completes in every state and from every context, answers the three fields side by side under seven zero
bits (bits 31..25 zero: decision D15), and changes nothing. -/
def Obligations.IdEncodeAnswersFieldsSideBySide : Prop :=
  ∀ (command : BitVec 8) (responseBit : Bool) (hash : BitVec 16) (s : State),
    exec (.idEncode command responseBit hash) s = .next { s with
      out := { result := .ident (0#7 ++ command ++ BitVec.ofBool responseBit ++ hash), overflow := false } }

/-- R81: ID.DECODE completes in every state and from every context, answers the four bit ranges of the identifier, packed in
format D its low 29 bits (bits 31..29 ignored: decision D14), and changes nothing. -/
def Obligations.IdDecodeAnswersBitRanges : Prop :=
  ∀ (id : Carrier) (s : State),
    exec (.idDecode id) s = .next { s with
      out := { result := .fields { priority := id.extractLsb' 25 4, command := id.extractLsb' 17 8,
                                   responseBit := id.getLsbD 16, hash := id.extractLsb' 0 16 }
               overflow := false } } ∧
    packFields (unpackId id) = id.setWidth 29

/-- R82: decoding what ID.ENCODE answers gives its three operands back, and priority 0. -/
def Obligations.IdRoundTripThroughTheUnit : Prop :=
  ∀ (command : BitVec 8) (responseBit : Bool) (hash : BitVec 16) (s : State),
    ∃ id t u, exec (.idEncode command responseBit hash) s = .next t ∧ t.out.result = .ident id ∧
      exec (.idDecode id) t = .next u ∧
      u.out.result = .fields { priority := 0, command := command, responseBit := responseBit, hash := hash }

/-- R83: encoding decoded fields keeps exactly the low 25 bits of the carrier; ID.ENCODE is injective and its image is
`0 .. 0x01FFFFFF`. -/
def Obligations.IdEncodeImage : Prop :=
  (∀ id : Carrier,
    packId (unpackId id).command (unpackId id).responseBit (unpackId id).hash = id &&& 0x01FFFFFF#32) ∧
  (∀ id : Carrier,
    packId (unpackId id).command (unpackId id).responseBit (unpackId id).hash = id ↔ id.extractLsb' 25 7 = 0#7) ∧
  (∀ (c c' : BitVec 8) (r r' : Bool) (h h' : BitVec 16), packId c r h = packId c' r' h' → c = c' ∧ r = r' ∧ h = h') ∧
  (∀ id : Carrier, (∃ c r h, packId c r h = id) ↔ id.toNat < 2 ^ 25)

/-! ### RX FIFO -/

/-- R90, success (decision D6 of the spec): the frame goes whole to slot WR, WR advances modulo N, LOW becomes 1, every other
slot reads as before, and nothing else changes. -/
def Obligations.PushStoresAndAdvances : Prop :=
  ∀ (f : Frame) (s : State),
    agentContext s.issuer = .producer → f.lengthOk → s.full = false → s.wr < s.cfg.capacity →
    exec (.rxqPush f) s = .next { s with
      slots := slotPut s.slots s.wr f
      wr := (s.wr + 1) % s.cfg.capacity
      low := true
      out := { result := .accepted true, overflow := false } } ∧
    slotGet (slotPut s.slots s.wr f) s.wr = some f ∧
    (∀ k, k ≠ s.wr → slotGet (slotPut s.slots s.wr f) k = slotGet s.slots k)

/-- R90, R93: a push on a full queue answers `accepted = 0`, emits Overflow, and changes no state of the block. -/
def Obligations.PushOnFullDropsNewest : Prop :=
  ∀ (f : Frame) (s : State),
    agentContext s.issuer = .producer → f.lengthOk → s.full = true →
    exec (.rxqPush f) s = .next { s with out := { result := .accepted false, overflow := true } }

/-- R91: a pop of an empty queue answers `None` (the record beside it free, U22) and changes no state of the block; the
model's count of free values advances (log entry 11). -/
def Obligations.PopOfEmptyAnswersNone : Prop :=
  ∀ s : State, agentContext s.issuer = .foreground → s.empty = true →
    ∃ g, exec .rxqPop s = .next { s with
      draws := s.draws + 1
      out := { result := .popped false g, overflow := false } }

/-- R91, R95: a pop answers the frame in slot RD (identifier, length and valid bytes as stored, the rest free), advances RD
modulo N, clears LOW, and changes nothing else: no slot (decision D8), no other register. A slot never written holds an
unspecified frame (R24). -/
def Obligations.PopTakesOldest : Prop :=
  ∀ s : State,
    agentContext s.issuer = .foreground → s.empty = false → s.rd < s.cfg.capacity →
    ∃ g, exec .rxqPop s = .next { s with
        rd := (s.rd + 1) % s.cfg.capacity
        low := false
        draws := s.draws + 1
        out := { result := .popped true g, overflow := false } } ∧
      ∀ f, slotGet s.slots s.rd = some f → visible g = visible f

/-- R92 (index value 0: decision D5): RXQ.CLEAR resets both indices and the disambiguator whatever they were, writes no slot
and changes nothing else. -/
def Obligations.ClearResetsIndices : Prop :=
  ∀ s : State, agentContext s.issuer = .foreground →
    exec .rxqClear s = .next { s with
      rd := 0, wr := 0, low := false, out := { result := .none, overflow := false } }

/-- R14: LOW is set by an accepted push, cleared by a successful pop and by RXQ.CLEAR, and left alone by everything else. -/
def Obligations.LowRecordsLastIndexChange : Prop :=
  ∀ (i : Instr) (s t : State), exec i s = .next t →
    t.low = (match i, t.out.result with
      | .rxqPush _, .accepted true => true
      | .rxqPop, .popped true _ => false
      | .rxqClear, _ => false
      | _, _ => s.low)

/-- R16, R17: with both indices in range the count is at most N, 0 exactly when empty, N exactly when full. -/
def Obligations.StatusFollowsCount : Prop :=
  ∀ s : State, IndicesOk s →
    s.count ≤ s.cfg.capacity ∧ (s.empty = true ↔ s.count = 0) ∧ (s.full = true ↔ s.count = s.cfg.capacity)

/-- R98: the registers implement a bounded FIFO of capacity N with drop-newest overflow. -/
def Obligations.QueueIsBoundedFifo : Prop :=
  ∀ s : State, Invariant s →
    (∀ f : Frame, agentContext s.issuer = .producer → f.lengthOk →
      ∃ t, exec (.rxqPush f) s = .next t ∧
        if (queue s).length < s.cfg.capacity then
          t.out = { result := .accepted true, overflow := false } ∧ queue t = queue s ++ [some f]
        else
          t.out = { result := .accepted false, overflow := true } ∧ queue t = queue s) ∧
    (agentContext s.issuer = .foreground →
      ∃ t, exec .rxqPop s = .next t ∧
        match queue s with
        | [] => (∃ g, t.out.result = .popped false g) ∧ queue t = []
        | oldest :: rest =>
          (∃ f g, oldest = some f ∧ t.out.result = .popped true g ∧ visible g = visible f) ∧ queue t = rest) ∧
    (agentContext s.issuer = .foreground → ∃ t, exec .rxqClear s = .next t ∧ queue t = [])

/-- R99: the source's reference scenario for N = 4, from any empty queue and for any five frames, and RXQ.CLEAR from any
state whatever. The index value 0 is decision D5 and the Overflow event decision D7 of the spec. -/
def Obligations.ReferenceScenario : Prop :=
  (∀ s : State, ∃ t, issue .foreground .rxqClear s = .next t ∧ t.empty = true ∧ t.rd = 0 ∧ t.wr = 0) ∧
  ∀ (s : State) (a b c d e : Frame), Invariant s → s.cfg.capacity = 4 → s.empty = true →
    a.lengthOk → b.lengthOk → c.lengthOk → d.lengthOk → e.lengthOk →
    ∃ q4 q5 q9 q10 q11,
      runQueue [.push a, .push b, .push c, .push d] { accepted := [], delivered := [], state := s } = some q4 ∧
      q4.accepted = [a, b, c, d] ∧
      runQueue [.push e] q4 = some q5 ∧
      q5.state.out = { result := .accepted false, overflow := true } ∧
      queue q5.state = [some a, some b, some c, some d] ∧
      runQueue [.pop, .pop, .pop, .pop] q5 = some q9 ∧
      q9.delivered.map visible = [visible a, visible b, visible c, visible d] ∧
      runQueue [.pop] q9 = some q10 ∧
      q10.delivered = q9.delivered ∧
      runQueue [.clear] q10 = some q11 ∧
      q11.state.empty = true ∧ q11.state.rd = 0 ∧ q11.state.wr = 0

/-- R41: over any sequence of queue operations from an empty queue, what has been delivered since the last clear is, in
order, the first of what has been accepted since then, and the queue holds exactly the rest. -/
def Obligations.FramesDeliveredInOrderOfAcceptance : Prop :=
  ∀ (s : State) (ops : List QueueOp), Invariant s → s.empty = true →
    (∀ f, QueueOp.push f ∈ ops → f.lengthOk) →
    ∃ q, runQueue ops { accepted := [], delivered := [], state := s } = some q ∧
      q.delivered.map visible = (q.accepted.map visible).take q.delivered.length ∧
      queue q.state = (q.accepted.drop q.delivered.length).map some

/-- R100: every RXQ operation completes in its own step in every state (of the invariant), and neither the queue nor the
slot array grows beyond N. -/
def Obligations.QueueOperationsCompleteWithoutGrowth : Prop :=
  ∀ (s : State) (op : QueueOp), Invariant s → (∀ f, op = .push f → f.lengthOk) →
    ∃ t, issue (queueInstr op).1 (queueInstr op).2 s = .next t ∧
      t.cfg = s.cfg ∧ t.count ≤ s.cfg.capacity ∧ t.slots.length ≤ s.cfg.capacity

/-! ### Timeout service -/

/-- R105 (order and equality: decision D18): the counter goes up by one modulo `2^W`, each flag whose threshold equals the
new value is cleared, no flag is set, and nothing else changes. The thresholds stand as (flag index, count at K = 1), R5 and
R112 (decision D16). -/
def Obligations.TickCountsThenExpires : Prop :=
  ∀ s : State, agentContext s.issuer = .producer →
    ∃ n flags, exec .tmrTick s = .next { s with
        ticks := n, flags := flags, out := { result := .none, overflow := false } } ∧
      n = (match s.cfg.tickBits with | none => s.ticks + 1 | some w => (s.ticks + 1) % 2 ^ w) ∧
      ∀ e ∈ ([(0, 62), (1, 625), (2, 30), (3, 4), (4, 150)] : List (Nat × Nat)),
        flags.getLsbD e.1 = (s.flags.getLsbD e.1 && decide (n ≠ e.2 * s.cfg.scale))

/-- R107: TMR.ARM zeroes the counter and sets the named flag in one step; the other flags and everything else stay. -/
def Obligations.ArmRestartsCounterAndSetsFlag : Prop :=
  ∀ (k : BitVec 3) (s : State), agentContext s.issuer = .foreground → flagIndexOk k →
    ∃ f flags, flagOfIndex k = some f ∧ flagIndex f = k.toNat ∧
      exec (.tmrArm k) s = .next { s with
        ticks := 0, flags := flags, out := { result := .none, overflow := false } } ∧
      flagSet flags f = true ∧ ∀ g, g ≠ f → flagSet flags g = flagSet s.flags g

/-- R108: TMR.TEST answers the flag's bit and changes nothing. -/
def Obligations.TestAnswersFlagBit : Prop :=
  ∀ (k : BitVec 3) (s : State), agentContext s.issuer = .foreground → flagIndexOk k →
    exec (.tmrTest k) s = .next { s with
      out := { result := .set (s.flags.getLsbD k.toNat), overflow := false } }

/-- R109 (decision D19): TMR.CLEAR clears every flag and the counter and changes nothing else. -/
def Obligations.TimerClearResetsUnit : Prop :=
  ∀ s : State, agentContext s.issuer = .foreground →
    exec .tmrClear s = .next { s with
      ticks := 0, flags := 0b00000, out := { result := .none, overflow := false } }

/-- R111, with the thresholds of R5, R19 and R112 by number (V-TMR-1; decision D16): after arming the flag of an index, `k`
ticks and a test, the flag is set exactly when `k` is below 62·K, 625·K, 30·K, 4·K, 150·K for index 0 to 4, wrap or no wrap.
The name `threshold`, which further statements use, is that table. -/
def Obligations.FlagExpiresExactlyAtThreshold : Prop :=
  ∀ e ∈ ([(0, 62), (1, 625), (2, 30), (3, 4), (4, 150)] : List (Nat × Nat)),
    (∀ (s : State) (k : Nat), s.cfg.Valid →
      ∃ t, runOps ((.foreground, .tmrArm (BitVec.ofNat 3 e.1)) ::
            (tickTimes k ++ [(.foreground, .tmrTest (BitVec.ofNat 3 e.1))])) s = .next t ∧
        t.out.result = .set (decide (k < e.2 * s.cfg.scale))) ∧
    (∀ (c : Config) (f : Flag), flagIndex f = e.1 → threshold c f = e.2 * c.scale)

/-- R110: arming one flag restarts the window of every other flag that is set: it closes its own threshold after that (the
thresholds by flag index, as in `FlagExpiresExactlyAtThreshold`). -/
def Obligations.ArmingExtendsOtherWindows : Prop :=
  ∀ (s : State) (armed : BitVec 3) (k : Nat), s.cfg.Valid → flagIndexOk armed →
    ∀ e ∈ ([(0, 62), (1, 625), (2, 30), (3, 4), (4, 150)] : List (Nat × Nat)), s.flags.getLsbD e.1 = true →
      ∃ t, runOps ((.foreground, .tmrArm armed) ::
            (tickTimes k ++ [(.foreground, .tmrTest (BitVec.ofNat 3 e.1))])) s = .next t ∧
        t.out.result = .set (decide (k < e.2 * s.cfg.scale))

/-- R21: a set flag is cleared by exactly the `(T_f − TICKS)`-th tick from now (the thresholds by flag index). -/
def Obligations.SetFlagClearsAfterRemainingTicks : Prop :=
  ∀ (s : State) (k : Nat), Invariant s →
    ∀ e ∈ ([(0, 62), (1, 625), (2, 30), (3, 4), (4, 150)] : List (Nat × Nat)), s.flags.getLsbD e.1 = true →
      ∃ t, runOps (tickTimes k ++ [(.foreground, .tmrTest (BitVec.ofNat 3 e.1))]) s = .next t ∧
        t.out.result = .set (decide (k < e.2 * s.cfg.scale - s.ticks))

/-- R113: under the invariant a tick that clears flags whose threshold the counter EQUALS clears those whose threshold it
has REACHED (the thresholds by flag index). -/
def Obligations.EqualsAndReachesAgree : Prop :=
  ∀ (s t : State), Invariant s → exec .tmrTick s = .next t →
    ∀ e ∈ ([(0, 62), (1, 625), (2, 30), (3, 4), (4, 150)] : List (Nat × Nat)),
      t.flags.getLsbD e.1 = (s.flags.getLsbD e.1 && decide (t.ticks < e.2 * s.cfg.scale))

/-- R114: a counter of any width with `2^W > 625·K` answers as the unbounded one does, operation by operation. -/
def Obligations.CounterWidthUnobservable : Prop :=
  ∀ (i : Instr) (s t u : State), s.cfg.Valid → sameUpToWidth s u → WindowsOpen u → exec i s = .next t →
    ∃ v, exec i u = .next v ∧ v.out = t.out ∧ sameUpToWidth t v ∧ WindowsOpen v

/-- R115: a flag is cleared only by the tick that meets its threshold or by TMR.CLEAR, set only by the arming that zeroes
the counter, and the counter is written by no other operation. -/
def Obligations.NoSingleFlagCancellation : Prop :=
  ∀ (i : Instr) (s t : State), exec i s = .next t →
    (∀ f, flagSet s.flags f = true → flagSet t.flags f = false →
      (i = .tmrTick ∧ t.ticks = threshold s.cfg f) ∨ i = .tmrClear) ∧
    (∀ f, flagSet s.flags f = false → flagSet t.flags f = true → i = .tmrArm (flagOperand f) ∧ t.ticks = 0) ∧
    (t.ticks ≠ s.ticks → i = .tmrTick ∨ i = .tmrClear ∨ ∃ k, i = .tmrArm k) ∧
    t.cfg = s.cfg

/-! ### The whole machine -/

/-- R163, R169, R170: an operation is refused exactly outside its domain: the wrong context first, then the flag index 5 to 7
or the length 9 to 15, and a length out of range is refused even on a full queue. -/
def Obligations.RefusedExactlyOutsideTheDomain : Prop :=
  ∀ (i : Instr) (s : State),
    (contextAllowed (agentContext s.issuer) i = false → exec i s = .refused .wrongContext) ∧
    (contextAllowed (agentContext s.issuer) i = true →
      (∀ k, (i = .tmrArm k ∨ i = .tmrTest k) → ¬ flagIndexOk k → exec i s = .refused (.noSuchFlag k)) ∧
      (∀ f, i = .rxqPush f → ¬ f.lengthOk → exec i s = .refused (.badLength f.length)) ∧
      (i.wellFormed = true → ∀ r, exec i s ≠ .refused r))

/-- R8: an operation changes only its own unit's state, and none changes the parameters or what waits at the port. -/
def Obligations.UnitsShareNoState : Prop :=
  ∀ (i : Instr) (s t : State), exec i s = .next t → samePort s t ∧
    match i with
    | .crcInit | .crcUpdate _ => sameQueue s t ∧ sameTimer s t
    | .crcRead | .idEncode _ _ _ | .idDecode _ | .tmrTest _ => sameCrc s t ∧ sameQueue s t ∧ sameTimer s t
    | .rxqPush _ | .rxqPop | .rxqClear => sameCrc s t ∧ sameTimer s t
    | .tmrTick | .tmrArm _ | .tmrClear => sameCrc s t ∧ sameQueue s t

/-- R13, R17, R21, R49 at reset, for every choice of the parameters R5 allows. -/
def Obligations.InvariantHoldsAfterReset : Prop :=
  Invariant State.reset ∧ ∀ c : Config, c.Valid → Invariant (State.resetWith c)

/-- R13, R17, R21, R49: every step from a state of the invariant leads to one. -/
def Obligations.EveryStepKeepsTheInvariant : Prop :=
  ∀ s t : State, Invariant s → step s = .next t → Invariant t

/-- R165: in a state of the invariant no step faults. -/
def Obligations.NoStepFaults : Prop :=
  ∀ (s : State) (r : Fault), Invariant s → step s ≠ .fault r

/-- R39, R160: while everything presented lies in the domain, every step completes, and the invariant and the domain go on; and
so does the environment's contract (R7, R102), which is narrower. -/
def Obligations.EveryStepCompletesUnderTheContract : Prop :=
  ∀ s : State, Invariant s → DomainKept s →
    ∃ t, step s = .next t ∧ Invariant t ∧ DomainKept t ∧ (ContractKept s → ContractKept t)

/-- R7, R102: an arrival within the contract is within the domain; it asks for at most one push, and only the bus producer does,
and for at most one operation that takes frames out, and only the foreground does. With such an instant's push and tick alone,
both orders end in one state of the block (R168). -/
def Obligations.OneProducerOneConsumer : Prop :=
  (∀ a : Arrival, arrivalInContract a = true →
    arrivalInDomain a = true ∧ countRequests isPush a ≤ 1 ∧ countRequests isConsume a ≤ 1) ∧
  (∀ f b t, arrivalInContract (.requests f b t) = true →
    countRequests isPush (.requests f none t) = 0 ∧ countRequests isConsume (.requests none b t) = 0) ∧
  (∀ (s u : State) (bus tick : Request) (rest : List Arrival) (g : Frame), Invariant s →
    s.pending = .requests none (some bus) (some tick) :: rest →
    decode bus = .ok (.rxqPush g) → decode tick = .ok .tmrTick → g.lengthOk →
    runOps [(.tickSource, .tmrTick), (.busProducer, .rxqPush g)] s = .next u →
    ∃ v w, step s = .next v ∧ step v = .next w ∧ w.pending = rest ∧ sameCrc u w ∧ sameQueue u w ∧ sameTimer u w)

/-- R24, R185 (decision D26): RD, WR, LOW, TICKS and FLAGS are 0 after reset, at the reference parameters of R5. The empty
port is the model's choice (log entry 6). -/
def Obligations.ResetClearsQueueAndTimer : Prop :=
  State.reset.rd = 0 ∧ State.reset.wr = 0 ∧ State.reset.low = false ∧ State.reset.ticks = 0 ∧
  State.reset.flags = 0b00000 ∧ State.reset.empty = true ∧
  State.reset.cfg = { capacity := 4, scale := 1, tickBits := none } ∧ State.reset.pending = []

/-- R185, R186, R187 (decision D26): a reset that has arrived is one step; it leaves RXQ and TMR as RXQ.CLEAR and TMR.CLEAR
do, some accumulator, no slot written, and no operation performed. What waits behind it stays (log entry 13). -/
def Obligations.ResetEventClearsTheBlock : Prop :=
  ∀ (s : State) (rest : List Arrival), s.pending = .reset :: rest →
    ∃ c, step s = .next { s with
      crc := c, rd := 0, wr := 0, low := false, slots := [], ticks := 0, flags := 0b00000
      issuer := .foreground, pending := rest, out := { result := .none, overflow := false }, draws := s.draws + 1 }

/-- R186 (log entry 14): with nothing presented the block waits: a step changes nothing but the port's output. -/
def Obligations.IdleStepChangesNothing : Prop :=
  ∀ s : State, s.pending = [] → step s = .next { s with out := { result := .none, overflow := false } }

/-- R11, R37, R54: when an agent's request stands alone at the head of what has arrived and decodes to an operation, the step
is that operation's meaning, with the request taken off the port and the agent noted; in general it is the meaning in the
state the port leaves. -/
def Obligations.StepRunsTheDecodedOperation : Prop :=
  (∀ (s : State) (a : Agent) (r : Request) (rest : List Arrival) (i : Instr),
    s.pending = aloneFrom a r :: rest → decode r = .ok i →
    step s = exec i { s with issuer := a, pending := rest }) ∧
  (∀ (s t : State) (r : Request) (i : Instr), fetch s = .perform r t → decode r = .ok i → step s = exec i t)

/-- R40, R168: of the requests of one instant the step performs one, whichever, and leaves the others for the next steps: each
pair of agents, and all three. -/
def Obligations.SimultaneousRequestsServedOneByOne : Prop :=
  (∀ (s : State) (p q : Request) (rest : List Arrival),
    (s.pending = .requests (some p) (some q) none :: rest →
      step s = perform p { s with issuer := .foreground, pending := .requests none (some q) none :: rest, draws := s.draws + 1 } ∨
      step s = perform q { s with issuer := .busProducer, pending := .requests (some p) none none :: rest, draws := s.draws + 1 }) ∧
    (s.pending = .requests (some p) none (some q) :: rest →
      step s = perform p { s with issuer := .foreground, pending := .requests none none (some q) :: rest, draws := s.draws + 1 } ∨
      step s = perform q { s with issuer := .tickSource, pending := .requests (some p) none none :: rest, draws := s.draws + 1 }) ∧
    (s.pending = .requests none (some p) (some q) :: rest →
      step s = perform p { s with issuer := .busProducer, pending := .requests none none (some q) :: rest, draws := s.draws + 1 } ∨
      step s = perform q { s with issuer := .tickSource, pending := .requests none (some p) none :: rest, draws := s.draws + 1 })) ∧
  (∀ (s : State) (p q r : Request) (rest : List Arrival),
    s.pending = .requests (some p) (some q) (some r) :: rest →
      step s = perform p { s with issuer := .foreground, pending := .requests none (some q) (some r) :: rest, draws := s.draws + 2 } ∨
      step s = perform q { s with issuer := .busProducer, pending := .requests (some p) none (some r) :: rest, draws := s.draws + 2 } ∨
      step s = perform r { s with issuer := .tickSource, pending := .requests (some p) (some q) none :: rest, draws := s.draws + 2 })

/-- R101, R168: a push and a pop requested together on a full queue end in one of two ways: the newest dropped, or the
newest queued behind the others. -/
def Obligations.PushBesidePopOnFullQueue : Prop :=
  ∀ (s : State) (f : Frame) (rest : List Arrival), Invariant s → s.full = true → f.lengthOk →
    s.pending = .requests (some (encode .rxqPop)) (some (encode (.rxqPush f))) none :: rest →
    ∃ t u, step s = .next t ∧ step t = .next u ∧ u.pending = rest ∧
      (queue u = (queue s).tail ∨ queue u = (queue s).tail ++ [some f])

/-- R116, R168: a tick and an arming requested together leave the flag set and the counter at 0 or 1. -/
def Obligations.TickBesideArm : Prop :=
  ∀ (s : State) (f : Flag) (rest : List Arrival), s.cfg.Valid →
    s.pending = .requests (some (encode (.tmrArm (flagOperand f)))) none (some (encode .tmrTick)) :: rest →
    ∃ t u, step s = .next t ∧ step t = .next u ∧ u.pending = rest ∧
      flagSet u.flags f = true ∧ (u.ticks = 0 ∨ u.ticks = 1)

/-! ### Pseudo-operations -/

/-- R120, R121, R122, R124 item 1 (the loop: decision D30): a wait that returns `Ok` returns a frame its predicate accepts, and
`block_for` never does. A match ends the wait: when the foreground pops, the oldest frame is consumed, and the wait returns it if
the predicate accepts what is visible of it, else goes on testing; on an empty queue it goes on testing. When it tests, a set flag
leads to a pop and a clear one to `Err(Timeout)`, with the queue left alone; and a wait that has returned stays as it is. -/
def Obligations.WaitReturnsOnlyAMatch : Prop :=
  (∀ (flag : Flag) (predicate : VisibleFrame → Bool) (turns : List Turn) (s t : State) (f : Frame),
    waitFor flag predicate turns (.arming, s) = some (.matched f, t) → predicate (visible f) = true) ∧
  (∀ (flag : Flag) (predicate : VisibleFrame → Bool) (s : State) (f : Frame) (rest : List (Option Frame)),
    Invariant s → queue s = some f :: rest →
    ∃ g t, waitTurn flag predicate .foreground (.popping, s) =
        some (if predicate (visible f) then .matched g else .testing, t) ∧
      visible g = visible f ∧ queue t = rest) ∧
  (∀ (flag : Flag) (predicate : VisibleFrame → Bool) (s : State), Invariant s → queue s = [] →
    ∃ t, waitTurn flag predicate .foreground (.popping, s) = some (.testing, t) ∧ queue t = []) ∧
  (∀ (flag : Flag) (predicate : VisibleFrame → Bool) (s : State),
    ∃ t, waitTurn flag predicate .foreground (.testing, s) =
        some (if s.flags.getLsbD (flagIndex flag) then .popping else .timedOut, t) ∧ sameQueue s t ∧ sameTimer s t) ∧
  (∀ (flag : Flag) (predicate : VisibleFrame → Bool) (s : State) (p : WaitPhase), p.done = true →
    waitTurn flag predicate .foreground (p, s) = some (p, s)) ∧
  (∀ (flag : Flag) (turns : List Turn) (s t : State) (p : WaitPhase),
    blockFor flag turns (.arming, s) = some (p, t) → ∀ f, p ≠ .matched f)

/-- R124 items 2 and 4: a wait that returns `Err(Timeout)` has seen at least its flag's threshold of ticks after its arming
(the first turn of the foreground), and the flag is clear. -/
def Obligations.NoTimeoutBeforeTheThreshold : Prop :=
  ∀ (flag : Flag) (predicate : VisibleFrame → Bool) (turns : List Turn) (s t : State), s.cfg.Valid →
    waitFor flag predicate turns (.arming, s) = some (.timedOut, t) →
    flagSet t.flags flag = false ∧
    ∃ before after, turns = before ++ .foreground :: after ∧ Turn.foreground ∉ before ∧
      threshold s.cfg flag ≤ countTicks after

/-- R122, R124 items 2 and 3: once the flag's threshold of ticks has come after the arming, two more turns of the foreground
end the wait, whatever was pushed meanwhile; `block_for` then ends with `Err(Timeout)`. -/
def Obligations.WaitEndsWhenTicksKeepComing : Prop :=
  ∀ (flag : Flag) (predicate : VisibleFrame → Bool) (turns : List Turn) (s : State), Invariant s →
    (∀ f, Turn.push f ∈ turns → f.lengthOk) → threshold s.cfg flag ≤ countTicks turns →
    (∃ p t, waitFor flag predicate (.foreground :: (turns ++ [.foreground, .foreground])) (.arming, s) = some (p, t) ∧
      p.done = true) ∧
    (∃ t, blockFor flag (.foreground :: (turns ++ [.foreground, .foreground])) (.arming, s) = some (.timedOut, t))

/-- R34, R134: reading an identity payload of length 8 gives the UID and the software version, most significant byte first, and the
last byte as the type, whatever the reserved byte holds; the engine's own answer (R135) is such a payload, of the type 0xFF. That
the length is checked is the model's choice (log entry 23). -/
def Obligations.IdentityPayloadRoundTrip : Prop :=
  ∀ (f : Frame) (uid : BitVec 32) (sversion : BitVec 16) (reserved type : Byte),
    f.length = 8#4 →
    (f.data.toList =
        [uid.extractLsb' 24 8, uid.extractLsb' 16 8, uid.extractLsb' 8 8, uid.extractLsb' 0 8,
         sversion.extractLsb' 8 8, sversion.extractLsb' 0 8, reserved, type] →
      peerIdentity f = some { uid := uid, sversion := sversion, deviceType := type }) ∧
    (f.data.toList = respPingPayload uid sversion →
      peerIdentity f = some { uid := uid, sversion := sversion, deviceType := 0xFF })
end

