-- ==== Sys2Proof/Laws/State.lean ====
section
/-! SUPPORT. The fields of a state after each update that has a name: reset, the reset event, and a request placed at the port. -/

namespace Sys2Proof.Machine

open Sys2Proof

variable (s : State) (c : Config) (nbits w : Nat)

@[simp] theorem resetWith_rd : (State.resetWith c).rd = 0 := rfl
@[simp] theorem resetWith_wr : (State.resetWith c).wr = 0 := rfl
@[simp] theorem resetWith_low : (State.resetWith c).low = false := rfl
@[simp] theorem resetWith_slots : (State.resetWith c).slots = [] := rfl
@[simp] theorem resetWith_ticks : (State.resetWith c).ticks = 0 := rfl
@[simp] theorem resetWith_flags : (State.resetWith c).flags = 0b00000#5 := rfl
@[simp] theorem resetWith_cfg : (State.resetWith c).cfg = c := rfl
@[simp] theorem resetWith_issuer : (State.resetWith c).issuer = .foreground := rfl
@[simp] theorem resetWith_pending : (State.resetWith c).pending = [] := rfl
@[simp] theorem resetWith_out : (State.resetWith c).out = Output.quiet := rfl

@[simp] theorem resetEvent_rd : (resetEvent s).rd = 0 := rfl
@[simp] theorem resetEvent_wr : (resetEvent s).wr = 0 := rfl
@[simp] theorem resetEvent_low : (resetEvent s).low = false := rfl
@[simp] theorem resetEvent_slots : (resetEvent s).slots = [] := rfl
@[simp] theorem resetEvent_ticks : (resetEvent s).ticks = 0 := rfl
@[simp] theorem resetEvent_flags : (resetEvent s).flags = 0b00000#5 := rfl
@[simp] theorem resetEvent_cfg : (resetEvent s).cfg = s.cfg := rfl
@[simp] theorem resetEvent_issuer : (resetEvent s).issuer = .foreground := rfl
@[simp] theorem resetEvent_pending : (resetEvent s).pending = s.pending := rfl
@[simp] theorem resetEvent_out : (resetEvent s).out = Output.quiet := rfl
@[simp] theorem resetEvent_draws : (resetEvent s).draws = s.draws + 1 := rfl

@[simp] theorem withFetchWord_crc : (s.withFetchWord nbits w).crc = s.crc := rfl
@[simp] theorem withFetchWord_rd : (s.withFetchWord nbits w).rd = s.rd := rfl
@[simp] theorem withFetchWord_wr : (s.withFetchWord nbits w).wr = s.wr := rfl
@[simp] theorem withFetchWord_low : (s.withFetchWord nbits w).low = s.low := rfl
@[simp] theorem withFetchWord_slots : (s.withFetchWord nbits w).slots = s.slots := rfl
@[simp] theorem withFetchWord_ticks : (s.withFetchWord nbits w).ticks = s.ticks := rfl
@[simp] theorem withFetchWord_flags : (s.withFetchWord nbits w).flags = s.flags := rfl
@[simp] theorem withFetchWord_cfg : (s.withFetchWord nbits w).cfg = s.cfg := rfl
@[simp] theorem withFetchWord_draws : (s.withFetchWord nbits w).draws = s.draws := rfl

end Sys2Proof.Machine
end

