-- ==== Sys2Proof/Laws/Ops.lean ====
section
/-! SUPPORT. One lemma for each shared operation: what it answers, and what it leaves alone. -/

namespace Sys2Proof.Machine

open Sys2Proof Sys2Proof.Safety

/-! ### Answers and checks -/

theorem answer_eq_next {r : Result} {s t : State} :
    answer r s = .next t ↔ t = { s with out := { result := r, overflow := false } } := by
  simp [answer, eq_comm]

theorem inContext_eq_next {c : Context} {s t : State} {body : Out} :
    inContext c s body = .next t ↔ agentContext s.issuer = c ∧ body = .next t := by
  unfold inContext; split <;> simp [*]

theorem inContext_of_eq {c : Context} {s : State} {body : Out} (h : agentContext s.issuer = c) :
    inContext c s body = body := if_pos h

theorem inContext_of_ne {c : Context} {s : State} {body : Out} (h : agentContext s.issuer ≠ c) :
    inContext c s body = .refused .wrongContext := if_neg h

theorem withFlag_eq_next {k : BitVec 3} {body : Flag → Out} {t : State} :
    withFlag k body = .next t ↔ ∃ f, flagOfIndex k = some f ∧ body f = .next t := by
  unfold withFlag; split <;> simp [*]

theorem atSlot_eq_next {i : Nat} {s t : State} {body : Out} :
    atSlot i s body = .next t ↔ i < s.cfg.capacity ∧ body = .next t := by
  unfold atSlot; split <;> simp [*]

/-! ### Flags and thresholds -/

theorem flagOfIndex_flagOperand (f : Flag) : flagOfIndex (flagOperand f) = some f := by
  cases f <;> decide

theorem flagOfIndex_eq_some {k : BitVec 3} {f : Flag} : flagOfIndex k = some f ↔ k = flagOperand f := by
  revert k; cases f <;> decide

theorem flagOfIndex_eq_none {k : BitVec 3} : flagOfIndex k = none ↔ ¬ flagIndexOk k := by
  revert k; decide

theorem flagOfIndex_isSome {k : BitVec 3} (h : flagIndexOk k) :
    ∃ f, flagOfIndex k = some f ∧ flagIndex f = k.toNat := by
  cases hf : flagOfIndex k with
  | none => exact absurd h (flagOfIndex_eq_none.mp hf)
  | some f =>
    refine ⟨f, rfl, ?_⟩
    rw [flagOfIndex_eq_some.mp hf]
    cases f <;> decide

theorem mem_allFlags (f : Flag) : f ∈ allFlags := by
  cases f <;> decide

theorem flagSet_zero (f : Flag) : flagSet 0b00000#5 f = false := by
  cases f <;> decide

theorem flagSet_raiseFlag (flags : BitVec 5) (f g : Flag) :
    flagSet (raiseFlag flags f) g = (decide (g = f) || flagSet flags g) := by
  revert flags; cases f <;> cases g <;> decide

theorem flagSet_dropFlag (flags : BitVec 5) (f g : Flag) :
    flagSet (dropFlag flags f) g = (flagSet flags g && decide (g ≠ f)) := by
  revert flags; cases f <;> cases g <;> decide

theorem flags_ext {a b : BitVec 5} (h : ∀ f, flagSet a f = flagSet b f) : a = b := by
  have h0 := h .lostCard
  have h1 := h .devBoot
  have h2 := h .devCalc
  have h3 := h .timeout
  have h4 := h .firstPing
  clear h
  revert a b; decide

theorem flagSet_expireFlags (c : Config) (n : Nat) (flags : BitVec 5) (f : Flag) :
    flagSet (expireFlags c n flags) f = (flagSet flags f && decide (n ≠ threshold c f)) := by
  have key : ∀ (l : List Flag) (fl : BitVec 5),
      flagSet (l.foldl (fun fl f => if n = threshold c f then dropFlag fl f else fl) fl) f
        = (flagSet fl f && decide (¬ (f ∈ l ∧ n = threshold c f))) := by
    intro l
    induction l with
    | nil => simp
    | cons g l ih =>
      intro fl
      rw [List.foldl_cons, ih]
      by_cases hg : n = threshold c g
      · rw [if_pos hg, flagSet_dropFlag]
        by_cases hfg : f = g
        · subst hfg; simp [hg]
        · simp [hfg]
      · rw [if_neg hg]
        by_cases hfg : f = g
        · subst hfg; simp [hg]
        · simp [hfg]
  unfold expireFlags
  rw [key]
  simp [mem_allFlags]

theorem threshold_pos {c : Config} (h : c.Valid) (f : Flag) : 4 ≤ threshold c f := by
  have := h.2.1
  cases f <;> simp only [threshold, baseThreshold] <;> omega

theorem threshold_le (c : Config) (f : Flag) : threshold c f ≤ 625 * c.scale := by
  cases f <;> simp only [threshold, baseThreshold] <;> omega

/-- Below a threshold the counter has no occasion to wrap (R21, R114). -/
theorem nextTick_of_lt {c : Config} {n : Nat} (h : c.Valid) {f : Flag} (hn : n < threshold c f) :
    nextTick c n = n + 1 := by
  have hle := threshold_le c f
  have hw := h.2.2
  unfold nextTick
  cases hb : c.tickBits with
  | none => rfl
  | some w =>
    simp only [hb, Option.all_some, decide_eq_true_eq] at hw
    exact Nat.mod_eq_of_lt (by omega)

/-! ### Slots -/

theorem slotGet_slotPut_self (m : Memory) (i : Nat) (f : Frame) : slotGet (slotPut m i f) i = some f := by
  induction m with
  | nil => simp [slotPut, slotGet]
  | cons p m ih =>
    obtain ⟨j, g⟩ := p
    unfold slotPut
    split
    · simp [slotGet]
    · split
      · simp [slotGet]
      · rename_i _ hne
        simp [slotGet, hne, ih]

theorem slotGet_slotPut_of_ne (m : Memory) {i k : Nat} (f : Frame) (h : k ≠ i) :
    slotGet (slotPut m i f) k = slotGet m k := by
  induction m with
  | nil => simp [slotPut, slotGet, h]
  | cons p m ih =>
    obtain ⟨j, g⟩ := p
    unfold slotPut
    split
    · simp [slotGet, h]
    · split
      · rename_i _ he
        subst he
        simp [slotGet, h]
      · simp only [slotGet, ih]

theorem mem_slotPut {m : Memory} {i : Nat} {f : Frame} {p : Nat × Frame} (h : p ∈ slotPut m i f) :
    p = (i, f) ∨ p ∈ m := by
  induction m with
  | nil => simpa [slotPut] using h
  | cons q m ih =>
    obtain ⟨j, g⟩ := q
    unfold slotPut at h
    split at h
    · simpa using h
    · split at h
      · rcases List.mem_cons.mp h with h | h
        · exact .inl h
        · exact .inr (List.mem_cons_of_mem _ h)
      · rcases List.mem_cons.mp h with h | h
        · exact .inr (by simp [h])
        · exact (ih h).imp id (List.mem_cons_of_mem _)

/-- Every store keeps the canonical form. -/
theorem slotPut_wf {m : Memory} (h : m.wf) (i : Nat) (f : Frame) : (slotPut m i f).wf := by
  induction m with
  | nil => simp [Memory.wf, slotPut]
  | cons p m ih =>
    obtain ⟨j, g⟩ := p
    have hm : Memory.wf m := (List.pairwise_cons.mp h).2
    have hj : ∀ q ∈ m, j < q.1 := fun q hq => (List.pairwise_cons.mp h).1 _ (List.mem_map_of_mem hq)
    unfold slotPut
    split
    · rename_i hij
      refine List.pairwise_cons.mpr ⟨?_, h⟩
      intro k hk
      obtain ⟨q, hq, rfl⟩ := List.mem_map.mp hk
      rcases List.mem_cons.mp hq with rfl | hq
      · exact hij
      · exact lt_trans hij (hj q hq)
    · split
      · rename_i _ he
        subst he
        exact h
      · rename_i hlt hne
        refine List.pairwise_cons.mpr ⟨?_, ih hm⟩
        intro k hk
        obtain ⟨q, hq, rfl⟩ := List.mem_map.mp hk
        rcases mem_slotPut hq with rfl | hq
        · simp only; omega
        · exact hj q hq

/-- Memory after reset is canonical. -/
theorem reset_slots_wf : State.reset.slots.wf := List.Pairwise.nil

theorem nextIndex_lt {c : Config} {i : Nat} (h : i < c.capacity) : nextIndex c i < c.capacity :=
  Nat.mod_lt _ (by omega)

/-- A reader of a popped frame sees exactly what was stored (R95). -/
theorem visible_observedFrame (f g : Frame) : visible (observedFrame (some f) g) = visible f := by
  have : ∀ a b : Vector Byte 8, ∀ n : Nat,
      ((Vector.ofFn fun k : Fin 8 => if k.val < n then a[k] else b[k]).toList.take n) = a.toList.take n := by
    intro a b n
    apply List.ext_getElem
    · simp
    · intro k h1 h2
      have hk : k < n := by simp at h1; omega
      simp [hk]
  simp only [visible, observedFrame, this]

/-! ### The port -/

theorem serve_single (d : Nat) (x : Agent × Request) : serve d [x] = some x := rfl

theorem serve_mem {d : Nat} {l : List (Agent × Request)} {x : Agent × Request} (h : serve d l = some x) : x ∈ l := by
  induction l generalizing d with
  | nil => simp [serve] at h
  | cons y l ih =>
    cases l with
    | nil => simp [serve] at h; simp [h]
    | cons z l =>
      simp only [serve] at h
      split at h
      · simp at h; simp [h]
      · exact List.mem_cons_of_mem _ (ih h)

theorem serve_isSome {d : Nat} {l : List (Agent × Request)} (h : l ≠ []) : ∃ x, serve d l = some x := by
  induction l generalizing d with
  | nil => exact absurd rfl h
  | cons y l ih =>
    cases l with
    | nil => exact ⟨y, rfl⟩
    | cons z l =>
      simp only [serve]
      split
      · exact ⟨y, rfl⟩
      · exact ih (by simp)

/-! ### The CRC step -/

/-- The shift in the form of 40_crc.md's polynomial reading: bit 15 decides. -/
theorem crcShift_eq_msb (c : BitVec 16) : crcShift c = if c.msb then (c <<< 1) ^^^ 0x1021#16 else c <<< 1 := by
  have h : (c &&& 0x8000#16) = if c.msb then 0x8000#16 else 0#16 := by
    have := BitVec.and_twoPow c 15
    have h8 : BitVec.twoPow 16 15 = 0x8000#16 := by decide
    rw [h8] at this
    simpa [BitVec.msb_eq_getLsbD_last] using this
  unfold crcShift
  rw [h]
  cases c.msb <;> simp [crcPoly]

theorem crcShift_xor (c d : BitVec 16) : crcShift (c ^^^ d) = crcShift c ^^^ crcShift d := by
  have hs : (c ^^^ d) <<< 1 = (c <<< 1) ^^^ (d <<< 1) := BitVec.shiftLeft_xor_distrib c d 1
  simp only [crcShift_eq_msb, BitVec.msb_xor, hs]
  generalize c <<< 1 = a
  generalize d <<< 1 = b
  have lc : ∀ x y z : BitVec 16, x ^^^ (y ^^^ z) = y ^^^ (x ^^^ z) := by
    intro x y z; rw [← BitVec.xor_assoc, BitVec.xor_comm x y, BitVec.xor_assoc]
  cases c.msb <;> cases d.msb <;> simp [BitVec.xor_assoc, BitVec.xor_comm, lc b a]

end Sys2Proof.Machine
end

