-- ==== Sys2Proof/Laws/Exec.lean ====
section
/-! SUPPORT. For each operation, everything it can do when it answers a next state: one inversion lemma per meaning, to be
cited instead of unfolding it. -/

namespace Sys2Proof.Machine

open Sys2Proof Sys2Proof.Safety

theorem execCrcInit_eq_next {s t : State} : execCrcInit s = .next t ↔
    agentContext s.issuer = .foreground ∧ t = { s with crc := crcSeed, out := { result := .none, overflow := false } } := by
  simp [execCrcInit, inContext_eq_next, answer_eq_next]

theorem execCrcUpdate_eq_next {b : Byte} {s t : State} : execCrcUpdate b s = .next t ↔
    agentContext s.issuer = .foreground ∧
      t = { s with crc := crcStep s.crc b, out := { result := .none, overflow := false } } := by
  simp [execCrcUpdate, inContext_eq_next, answer_eq_next]

theorem execCrcRead_eq_next {s t : State} : execCrcRead s = .next t ↔
    agentContext s.issuer = .foreground ∧ t = { s with out := { result := .crc s.crc, overflow := false } } := by
  simp [execCrcRead, inContext_eq_next, answer_eq_next]

theorem execIdEncode_eq_next {c : BitVec 8} {r : Bool} {h : BitVec 16} {s t : State} : execIdEncode c r h s = .next t ↔
    t = { s with out := { result := .ident (packId c r h), overflow := false } } := by
  simp [execIdEncode, answer_eq_next]

theorem execIdDecode_eq_next {id : Carrier} {s t : State} : execIdDecode id s = .next t ↔
    t = { s with out := { result := .fields (unpackId id), overflow := false } } := by
  simp [execIdDecode, answer_eq_next]

theorem execRxqPush_eq_next {f : Frame} {s t : State} : execRxqPush f s = .next t ↔
    agentContext s.issuer = .producer ∧ f.lengthOk ∧
      ((s.full = true ∧ t = { s with out := { result := .accepted false, overflow := true } }) ∨
       (s.full = false ∧ s.wr < s.cfg.capacity ∧
        t = { s with
          slots := slotPut s.slots s.wr f
          wr := nextIndex s.cfg s.wr
          low := true
          out := { result := .accepted true, overflow := false } })) := by
  unfold execRxqPush
  rw [inContext_eq_next]
  refine and_congr_right fun _ => ?_
  by_cases hl : f.lengthOk
  · cases hf : s.full <;> simp [hl, dropNewest, atSlot_eq_next, answer_eq_next, eq_comm (b := t)]
  · simp [hl]

theorem execRxqPop_eq_next {s t : State} : execRxqPop s = .next t ↔
    agentContext s.issuer = .foreground ∧
      ((s.empty = true ∧
        t = { s with draws := s.draws + 1, out := { result := .popped false (drawnFrame s), overflow := false } }) ∨
       (s.empty = false ∧ s.rd < s.cfg.capacity ∧
        t = { s with
          rd := nextIndex s.cfg s.rd
          low := false
          draws := s.draws + 1
          out := { result := .popped true (observedFrame (slotGet s.slots s.rd) (drawnFrame s)), overflow := false } })) := by
  unfold execRxqPop
  rw [inContext_eq_next]
  refine and_congr_right fun _ => ?_
  cases he : s.empty <;> simp [atSlot_eq_next, answer_eq_next]

theorem execRxqClear_eq_next {s t : State} : execRxqClear s = .next t ↔
    agentContext s.issuer = .foreground ∧
      t = { s with rd := 0, wr := 0, low := false, out := { result := .none, overflow := false } } := by
  simp [execRxqClear, inContext_eq_next, answer_eq_next]

theorem execTmrTick_eq_next {s t : State} : execTmrTick s = .next t ↔
    agentContext s.issuer = .producer ∧
      t = { s with
        ticks := nextTick s.cfg s.ticks
        flags := expireFlags s.cfg (nextTick s.cfg s.ticks) s.flags
        out := { result := .none, overflow := false } } := by
  simp [execTmrTick, inContext_eq_next, answer_eq_next]

theorem execTmrArm_eq_next {k : BitVec 3} {s t : State} : execTmrArm k s = .next t ↔
    agentContext s.issuer = .foreground ∧ ∃ f, flagOfIndex k = some f ∧
      t = { s with ticks := 0, flags := raiseFlag s.flags f, out := { result := .none, overflow := false } } := by
  simp [execTmrArm, inContext_eq_next, withFlag_eq_next, answer_eq_next]

theorem execTmrTest_eq_next {k : BitVec 3} {s t : State} : execTmrTest k s = .next t ↔
    agentContext s.issuer = .foreground ∧ ∃ f, flagOfIndex k = some f ∧
      t = { s with out := { result := .set (flagSet s.flags f), overflow := false } } := by
  simp [execTmrTest, inContext_eq_next, withFlag_eq_next, answer_eq_next]

theorem execTmrClear_eq_next {s t : State} : execTmrClear s = .next t ↔
    agentContext s.issuer = .foreground ∧
      t = { s with ticks := 0, flags := 0b00000, out := { result := .none, overflow := false } } := by
  simp [execTmrClear, inContext_eq_next, answer_eq_next]

/-- What every operation leaves alone: the parameters, the issuer, and what waits at the port. -/
theorem exec_keeps_port {i : Instr} {s t : State} (h : exec i s = .next t) : samePort s t := by
  cases i <;> simp only [exec] at h
  case crcInit => obtain ⟨_, rfl⟩ := execCrcInit_eq_next.mp h; exact ⟨rfl, rfl, rfl⟩
  case crcUpdate b => obtain ⟨_, rfl⟩ := execCrcUpdate_eq_next.mp h; exact ⟨rfl, rfl, rfl⟩
  case crcRead => obtain ⟨_, rfl⟩ := execCrcRead_eq_next.mp h; exact ⟨rfl, rfl, rfl⟩
  case idEncode => cases execIdEncode_eq_next.mp h; exact ⟨rfl, rfl, rfl⟩
  case idDecode => cases execIdDecode_eq_next.mp h; exact ⟨rfl, rfl, rfl⟩
  case rxqPush => obtain ⟨_, _, ⟨_, rfl⟩ | ⟨_, _, rfl⟩⟩ := execRxqPush_eq_next.mp h <;> exact ⟨rfl, rfl, rfl⟩
  case rxqPop => obtain ⟨_, ⟨_, rfl⟩ | ⟨_, _, rfl⟩⟩ := execRxqPop_eq_next.mp h <;> exact ⟨rfl, rfl, rfl⟩
  case rxqClear => obtain ⟨_, rfl⟩ := execRxqClear_eq_next.mp h; exact ⟨rfl, rfl, rfl⟩
  case tmrTick => obtain ⟨_, rfl⟩ := execTmrTick_eq_next.mp h; exact ⟨rfl, rfl, rfl⟩
  case tmrArm => obtain ⟨_, _, _, rfl⟩ := execTmrArm_eq_next.mp h; exact ⟨rfl, rfl, rfl⟩
  case tmrTest => obtain ⟨_, _, _, rfl⟩ := execTmrTest_eq_next.mp h; exact ⟨rfl, rfl, rfl⟩
  case tmrClear => obtain ⟨_, rfl⟩ := execTmrClear_eq_next.mp h; exact ⟨rfl, rfl, rfl⟩

/-- The step at a request that stands alone: the port is emptied of it and the agent noted. -/
theorem fetch_alone {s : State} {a : Agent} {r : Request} {rest : List Arrival} (h : s.pending = aloneFrom a r :: rest) :
    fetch s = .perform r { s with issuer := a, pending := rest } := by
  cases a <;> simp [fetch, h, aloneFrom, waiting, serve, withdraw]

end Sys2Proof.Machine
end

