-- ==== Sys2Proof/Laws/Composite.lean ====
section
/-! SUPPORT. Sequences of operations: what an issued TMR operation answers, and how runs and waits put end to end. -/

namespace Sys2Proof.Machine

open Sys2Proof Sys2Proof.Safety

theorem issue_tick (s : State) : issue .tickSource .tmrTick s = .next { s with
    issuer := .tickSource
    ticks := nextTick s.cfg s.ticks
    flags := expireFlags s.cfg (nextTick s.cfg s.ticks) s.flags
    out := { result := .none, overflow := false } } :=
  (execTmrTick_eq_next (s := { s with issuer := .tickSource })).mpr ⟨rfl, rfl⟩

theorem issue_arm (s : State) (f : Flag) : issue .foreground (.tmrArm (flagOperand f)) s = .next { s with
    issuer := .foreground
    ticks := 0
    flags := raiseFlag s.flags f
    out := { result := .none, overflow := false } } :=
  (execTmrArm_eq_next (s := { s with issuer := .foreground })).mpr ⟨rfl, f, flagOfIndex_flagOperand f, rfl⟩

theorem issue_test (s : State) (f : Flag) : issue .foreground (.tmrTest (flagOperand f)) s = .next { s with
    issuer := .foreground
    out := { result := .set (flagSet s.flags f), overflow := false } } :=
  (execTmrTest_eq_next (s := { s with issuer := .foreground })).mpr ⟨rfl, f, flagOfIndex_flagOperand f, rfl⟩

theorem runOps_append {a b : List (Agent × Instr)} {s t : State} (h : runOps a s = .next t) :
    runOps (a ++ b) s = runOps b t := by
  induction a generalizing s with
  | nil => cases h; rfl
  | cons x a ih =>
    simp only [List.cons_append, runOps] at h ⊢
    split at h
    · exact ih h
    · cases h
    · cases h

theorem waitFor_append {flag : Flag} {predicate : VisibleFrame → Bool} {a b : List Turn} {w w' : WaitPhase × State}
    (h : waitFor flag predicate a w = some w') :
    waitFor flag predicate (a ++ b) w = waitFor flag predicate b w' := by
  induction a generalizing w with
  | nil => cases h; rfl
  | cons x a ih =>
    simp only [List.cons_append, waitFor] at h ⊢
    split at h
    · cases h
    · exact ih h

/-- The contract is within the domain (R163). -/
theorem requestInDomain_of_contract {a : Agent} {r : Request} (h : requestInContract a r = true) :
    requestInDomain a r = true := by
  unfold requestInContract at h
  unfold requestInDomain
  split at h
  · cases h
  · simp only [agentMayIssue, Bool.and_eq_true] at h
    simp [h.1.1, h.2]

end Sys2Proof.Machine
end

