-- ==== Sys2Proof/Laws/PerInstr.lean ====
section
/-! SUPPORT. One lemma per constructor of `Instr` for each family LAWS.json names. The family `PortWidth`: the request that
presents an operation fits the argument width of its `op` (R55, R64), so the port can carry it. -/

namespace Sys2Proof.Laws.PortWidth

open Sys2Proof

/-- The request that presents the operation fits its format. -/
def Statement (i : Instr) : Prop := (encode i).Fits

theorem crcInit : Statement .crcInit := Nat.one_pos
theorem crcUpdate (byte : Byte) : Statement (.crcUpdate byte) := by
  have := byte.isLt
  simp only [Statement, encode, Request.Fits, argWidth, BitVec.toNat_setWidth]
  exact lt_of_le_of_lt (Nat.mod_le _ _) this
theorem crcRead : Statement .crcRead := Nat.one_pos
theorem idEncode (command : BitVec 8) (responseBit : Bool) (hash : BitVec 16) :
    Statement (.idEncode command responseBit hash) := by
  have := (command ++ BitVec.ofBool responseBit ++ hash).isLt
  simp only [Statement, encode, Request.Fits, argWidth, BitVec.toNat_setWidth]
  exact lt_of_le_of_lt (Nat.mod_le _ _) this
theorem idDecode (id : Carrier) : Statement (.idDecode id) := by
  have := id.isLt
  simp only [Statement, encode, Request.Fits, argWidth, BitVec.toNat_setWidth]
  exact lt_of_le_of_lt (Nat.mod_le _ _) this
theorem rxqPush (frame : Frame) : Statement (.rxqPush frame) := (packFrame frame).isLt
theorem rxqPop : Statement .rxqPop := Nat.one_pos
theorem rxqClear : Statement .rxqClear := Nat.one_pos
theorem tmrTick : Statement .tmrTick := Nat.one_pos
theorem tmrArm (flag : BitVec 3) : Statement (.tmrArm flag) := by
  have := flag.isLt
  simp only [Statement, encode, Request.Fits, argWidth, BitVec.toNat_setWidth]
  exact lt_of_le_of_lt (Nat.mod_le _ _) this
theorem tmrTest (flag : BitVec 3) : Statement (.tmrTest flag) := by
  have := flag.isLt
  simp only [Statement, encode, Request.Fits, argWidth, BitVec.toNat_setWidth]
  exact lt_of_le_of_lt (Nat.mod_le _ _) this
theorem tmrClear : Statement .tmrClear := Nat.one_pos

end Sys2Proof.Laws.PortWidth
end

