-- ==== Sys2Proof/Laws/Queue.lean ====
section
/-! SUPPORT. The queue's status and index arithmetic (R16, R97) in linear form, and what a push and a pop do to the count and
to the live indices. -/

namespace Sys2Proof.Machine

open Sys2Proof Sys2Proof.Safety

/-- `count` without remainders (R16). -/
theorem count_linear {s : State} (h : IndicesOk s) :
    s.count = if s.rd < s.wr then s.wr - s.rd
      else if s.wr < s.rd then s.wr + s.cfg.capacity - s.rd
      else if s.low then s.cfg.capacity else 0 := by
  obtain ⟨hr, hw⟩ := h
  unfold State.count
  by_cases h1 : s.rd < s.wr
  · rw [if_pos (by omega), if_pos h1,
      show s.wr + s.cfg.capacity - s.rd = (s.wr - s.rd) + s.cfg.capacity by omega, Nat.add_mod_right]
    exact Nat.mod_eq_of_lt (by omega)
  · by_cases h2 : s.wr < s.rd
    · rw [if_pos (by omega), if_neg h1, if_pos h2]
      exact Nat.mod_eq_of_lt (by omega)
    · rw [if_neg (by omega), if_neg h1, if_neg h2]

/-- `live(k)`'s slot without remainders. -/
theorem liveIndex_linear {s : State} {k : Nat} (h : s.rd < s.cfg.capacity) (hk : k ≤ s.cfg.capacity) :
    s.liveIndex k = if s.rd + k < s.cfg.capacity then s.rd + k else s.rd + k - s.cfg.capacity := by
  unfold State.liveIndex
  split
  · exact Nat.mod_eq_of_lt (by assumption)
  · rw [Nat.mod_eq_sub_mod (by omega)]
    exact Nat.mod_eq_of_lt (by omega)

theorem nextIndex_linear {c : Config} {i : Nat} (h : i < c.capacity) :
    nextIndex c i = if i + 1 < c.capacity then i + 1 else 0 := by
  unfold nextIndex
  split
  · exact Nat.mod_eq_of_lt (by assumption)
  · rw [show i + 1 = c.capacity by omega, Nat.mod_self]

theorem empty_iff {s : State} : s.empty = true ↔ s.rd = s.wr ∧ s.low = false := by
  simp [State.empty]

theorem full_iff {s : State} : s.full = true ↔ s.rd = s.wr ∧ s.low = true := by
  simp [State.full]

theorem liveIndex_lt {s : State} (h : s.rd < s.cfg.capacity) (k : Nat) : s.liveIndex k < s.cfg.capacity :=
  Nat.mod_lt _ (by omega)

/-- The slot the next accepted frame goes to is the one after the live frames. -/
theorem liveIndex_count {s : State} (h : IndicesOk s) : s.liveIndex s.count = s.wr := by
  have hc := count_linear h
  obtain ⟨hr, hw⟩ := h
  rw [liveIndex_linear hr (by split_ifs at hc <;> omega)]
  split_ifs at hc ⊢ <;> omega

/-- Live frames stand in other slots than the one the next accepted frame goes to. -/
theorem liveIndex_ne_wr {s : State} (h : IndicesOk s) (hf : s.full = false) {k : Nat} (hk : k < s.count) :
    s.liveIndex k ≠ s.wr := by
  have hc := count_linear h
  have hl : ¬ (s.rd = s.wr ∧ s.low = true) := by rw [← full_iff, hf]; simp
  obtain ⟨hr, hw⟩ := h
  rw [liveIndex_linear hr (by split_ifs at hc <;> omega)]
  split_ifs at hc ⊢ <;> first | omega | exact absurd ⟨by omega, by assumption⟩ hl

end Sys2Proof.Machine
end

