-- ==== Sys2Proof/Tests/Slice0.lean ====
section
/-! SUPPORT. Tests. Expected values are those of 95_test_vectors.md (named in each docstring) or of the rule named; and for
every obligation with hypotheses a witness that meets them. -/

namespace Sys2Proof.Tests

open Sys2Proof Sys2Proof.Machine Sys2Proof.Safety

/-! ### Small states -/

/-- The reset state with the accumulator seeded, so that every field is a numeral. -/
def seeded : State := { State.reset with crc := 0xFFFF }

/-- The same, asked by the bus producer, and by the tick source. -/
def fromBus : State := { seeded with issuer := .busProducer }
def fromTick : State := { seeded with issuer := .tickSource }

/-- Frames X, Y, Z of 95_test_vectors.md, and a frame with one valid byte. -/
def frameX : Frame := { id := 0x00374711, length := 8, data := #v[0x11, 0x22, 0x33, 0x44, 0x01, 0x02, 0x00, 0x10] }
def frameY : Frame := { frameX with id := 0x00314711 }
def frameZ : Frame := { id := 0x00304711, length := 0, data := #v[0, 0, 0, 0, 0, 0, 0, 0] }
def frameK (k : Byte) : Frame := { id := 0x00304711, length := 1, data := #v[k, 0, 0, 0, 0, 0, 0, 0] }

/-- A frame whose length field is 9. -/
def longFrame : Frame := { frameZ with length := 9 }

/-- A full queue of four frames (V-RXQ-1 step 4). -/
def fullQueue : State :=
  { seeded with low := true, slots := [(0, frameX), (1, frameY), (2, frameZ), (3, frameK 1)] }

/-- Three frames, the next slot the last one (V-RXQ-1 step 3). -/
def threeFrames : State :=
  { seeded with wr := 3, low := true, slots := [(0, frameX), (1, frameY), (2, frameZ)] }

/-- TIMEOUT and DEV_BOOT set, three ticks counted (the example of R105). -/
def window : State := { seeded with ticks := 3, flags := 0b01010 }

/-- A counter of ten bits. -/
def tenBits : Config := { capacity := 4, scale := 1, tickBits := some 10 }

/-- The state after an operation that completes. -/
def after (i : Instr) (s : State) : Option State :=
  match exec i s with
  | .next t => some t
  | _ => none

/-- The refusal an operation ends in. -/
def refusal (o : Out) : Option Refusal :=
  match o with
  | .refused r => some r
  | _ => none

/-! ### Decoding: words written out from R48, R55, R60 -/

theorem test_decode_crc : decode { op := 0x00, arg := 0 } = .ok .crcInit ∧
    decode { op := 0x01, arg := 0x31 } = .ok (.crcUpdate 0x31) ∧ decode { op := 0x02, arg := 0 } = .ok .crcRead := by decide
/-- V-ID-1, V-ID-2. -/
theorem test_decode_id : decode { op := 0x10, arg := 0x0314711 } = .ok (.idEncode 0x18 true 0x4711) ∧
    decode { op := 0x10, arg := 0x1008000 } = .ok (.idEncode 0x80 false 0x8000) ∧
    decode { op := 0x11, arg := 0xE0000001 } = .ok (.idDecode 0xE0000001) := by decide
/-- P3. -/
theorem test_decode_push : decode { op := 0x20, arg := 0x0037471181122334401020010 } = .ok (.rxqPush frameX) := by decide
theorem test_decode_rxq : decode { op := 0x21, arg := 0 } = .ok .rxqPop ∧ decode { op := 0x22, arg := 0 } = .ok .rxqClear := by
  decide
/-- V-TMR-1, P4. -/
theorem test_decode_tmr : decode { op := 0x30, arg := 0 } = .ok .tmrTick ∧ decode { op := 0x31, arg := 4 } = .ok (.tmrArm 4) ∧
    decode { op := 0x32, arg := 1 } = .ok (.tmrTest 1) ∧ decode { op := 0x33, arg := 0 } = .ok .tmrClear := by decide
/-- V-REF-1, V-REF-2. -/
theorem test_decode_unassigned : ([0x03, 0x40, 0xFF, 0x12, 0x23, 0x34] : List (BitVec 8)).all
    (fun op => decide (decode { op := op, arg := 0 } = .error (.unassignedOp op))) = true := by decide
/-- The table's numbering: `op` in bits 7..0, the operand word from bit 8 up. -/
theorem test_decode_table : decodeTableWord 8 0x31 = some (.tmrArm 0) ∧ decodeTableWord 16 0x0331 = some (.tmrArm 3) ∧
    decodeTableWord 8 0x40 = none := by decide
/-- The first step after reset runs the word placed. -/
theorem test_fetch : ∃ t, step (State.reset.withFetchWord 8 0x30) = .next t ∧ t.ticks = 1 ∧ t.issuer = .tickSource :=
  ⟨_, rfl, rfl, rfl⟩

/-! ### Well-formedness: a term each check refuses -/

theorem test_illformed_arm : (Instr.tmrArm 5).wellFormed = false ∧ (Instr.tmrArm 4).wellFormed = true := by decide
theorem test_illformed_test : (Instr.tmrTest 7).wellFormed = false ∧ (Instr.tmrTest 0).wellFormed = true := by decide
theorem test_illformed_push : (Instr.rxqPush longFrame).wellFormed = false ∧ (Instr.rxqPush frameX).wellFormed = true := by
  decide

/-! ### CRC -/

/-- R70: the previous value is lost. -/
theorem test_crc_init : (after .crcInit { seeded with crc := 0x29B1 }).map (·.crc) = some 0xFFFF := by decide
/-- V-CRC-3. -/
theorem test_crc_update : (after (.crcUpdate 0x31) seeded).map (·.crc) = some 0xC782 := by decide
/-- V-CRC-4: byte bit 7 and accumulator bit 15 are the same position. -/
theorem test_crc_update_state : (after (.crcUpdate 0x56) { seeded with crc := 0x1234 }).map (·.crc) = some 0x3C40 ∧
    (after (.crcUpdate 0x00) { seeded with crc := 0x8000 }).map (·.crc) = some 0x9188 := by decide
/-- V-CRC-11. -/
theorem test_crc_read : (after .crcRead { seeded with crc := 0x3DBA }).map (fun t => (t.out.result, t.crc))
    = some (.crc 0x3DBA, 0x3DBA) := by decide
/-- V-CRC-5. -/
theorem test_crc16_check : crc16 [0x31, 0x32, 0x33, 0x34, 0x35, 0x36, 0x37, 0x38, 0x39] = 0x29B1 := by
  decide +kernel
/-- V-CRC-7. -/
theorem test_crc16_padded : crc16 (bootloaderStream [1, 2, 3]) = 0x1B8E ∧ crc16 (configStream [1, 2, 3]) = 0xD8EE := by
  decide +kernel

/-! ### Identifier codec -/

/-- V-ID-1. -/
theorem test_id_encode : (after (.idEncode 0x18 true 0x4711) fromTick).map (·.out.result) = some (.ident 0x00314711) ∧
    (after (.idEncode 0xFF true 0xFFFF) seeded).map (·.out.result) = some (.ident 0x01FFFFFF) := by decide
/-- V-ID-2. -/
theorem test_id_decode : (after (.idDecode 0x1E314711) seeded).map (·.out.result)
    = some (.fields { priority := 0xF, command := 0x18, responseBit := true, hash := 0x4711 }) := by decide
/-- V-ID-2: carrier bits 31..29 ignored. -/
theorem test_id_decode_high : (after (.idDecode 0xE0000000) fromBus).map (·.out.result)
    = some (.fields { priority := 0, command := 0, responseBit := false, hash := 0 }) := by decide

/-! ### RX FIFO -/

/-- V-RXQ-1 step 4: WR wraps. -/
theorem test_push : (after (.rxqPush (frameK 7)) { threeFrames with issuer := .busProducer }).map
    (fun t => (t.wr, t.low, slotGet t.slots 3, t.full, t.out)) =
    some (0, true, some (frameK 7), true, { result := .accepted true, overflow := false }) := by decide
/-- V-RXQ-1 step 5. -/
theorem test_push_full : after (.rxqPush frameZ) { fullQueue with issuer := .busProducer } =
    some { fullQueue with issuer := .busProducer, out := { result := .accepted false, overflow := true } } := by decide
/-- V-RXQ-1 step 6: the frame comes out whole, the slot keeps it. -/
theorem test_pop : (after .rxqPop fullQueue).map (fun t => (t.out.result, t.rd, t.low, t.slots)) =
    some (.popped true frameX, 1, false, fullQueue.slots) := by decide
/-- V-RXQ-1 step 10. -/
theorem test_pop_empty : ∃ g t, exec .rxqPop seeded = .next t ∧ t.out.result = .popped false g ∧ t.rd = 0 :=
  ⟨_, _, rfl, rfl, rfl⟩
/-- V-RXQ-8, full. -/
theorem test_clear : (after .rxqClear { fullQueue with rd := 2, wr := 2 }).map (fun t => (t.rd, t.wr, t.empty)) =
    some (0, 0, true) := by decide
/-- P2 step 4: the 98-bit result word. -/
theorem test_pop_word : resultWord (.popped true frameY) = 0x2031471181122334401020010 := by decide

/-! ### Timeout service -/

/-- The example of R105. -/
theorem test_tick : (after .tmrTick { window with issuer := .tickSource }).map (fun t => (t.ticks, t.flags)) =
    some (4, 0b00010) := by decide
/-- V-TMR-1: each flag goes at its threshold, by number, and the others stay. -/
theorem test_tick_thresholds :
    ([(0, 62), (1, 625), (2, 30), (3, 4), (4, 150)] : List (Nat × Nat)).map (fun e =>
      (after .tmrTick { fromTick with ticks := e.2 - 1, flags := 0b11111 }).map (·.flags)) =
    [some 0b11110, some 0b11101, some 0b11011, some 0b10111, some 0b01111] := by decide
/-- R18: the counter wraps at its width. -/
theorem test_tick_wraps : (after .tmrTick { fromTick with cfg := tenBits, ticks := 1023 }).map (fun t => (t.ticks, t.flags)) =
    some (0, 0) := by decide
/-- V-TMR-4. -/
theorem test_arm : (after (.tmrArm 3) { seeded with ticks := 28, flags := 0b00100 }).map (fun t => (t.ticks, t.flags)) =
    some (0, 0b01100) := by decide
/-- The example of R108. -/
theorem test_test : (after (.tmrTest 1) { seeded with flags := 0b00010 }).map (·.out.result) = some (.set true) ∧
    (after (.tmrTest 3) { seeded with flags := 0b00010 }).map (·.out.result) = some (.set false) := by decide
/-- V-TMR-9. -/
theorem test_timer_clear : (after .tmrClear { seeded with ticks := 200, flags := 0b00010 }).map (fun t => (t.ticks, t.flags)) =
    some (0, 0) := by decide

/-! ### Refusals -/

/-- V-REF-1, at the step. -/
theorem test_refuse_op : refusal (step { seeded with pending := [aloneFrom .foreground { op := 0x03, arg := 0 }] }) =
    some (.unassignedOp 0x03) := by decide
/-- V-REF-3, V-REF-4. -/
theorem test_refuse_flag : refusal (exec (.tmrArm 5) seeded) = some (.noSuchFlag 5) ∧
    refusal (exec (.tmrTest 6) seeded) = some (.noSuchFlag 6) := by decide
/-- V-REF-5: before the overflow. -/
theorem test_refuse_length : refusal (exec (.rxqPush longFrame) { fullQueue with issuer := .busProducer }) =
    some (.badLength 9) := by decide
/-- V-REF-6, V-REF-8, V-REF-9. -/
theorem test_refuse_context : refusal (exec (.rxqPush frameX) seeded) = some .wrongContext ∧
    refusal (exec .tmrTick seeded) = some .wrongContext ∧ refusal (exec (.tmrArm 7) fromBus) = some .wrongContext := by decide

/-! ### Environment -/

/-- S5. -/
theorem test_handshake : peerIdentity frameY = some { uid := 0x11223344, sversion := 0x0102, deviceType := typeGfpMs2 } := by
  decide
/-- R142 with the payload of S5: the boot window's timeout is normal, the ping's aborts. What an earlier cycle left in the record
does not carry over (R141). -/
theorem test_gfp_handshake :
    runHandshake gfpHandshake [some { frameX with id := 0x00364711 }, none, some frameY] none
        { deviceType := 0xFF, hash := 0xFFFF, sversion := 0xFFFF, uid := 0xFFFFFFFF } =
      some { deviceType := 0x10, hash := 0x4711, sversion := 0x0102, uid := 0x11223344 } ∧
    runHandshake gfpHandshake [some frameX, none, none] none Device.fresh = none := by decide
/-- R125: the block number echoed is compared (payload of R136); a mismatch and a timeout abort. -/
theorem test_block_ack : waitVerdict (.blockNumberAck 6)
      (some { id := 0x00374711, length := 6, bytes := [0x11, 0x22, 0x33, 0x44, 0x44, 6] }) = .goOn ∧
    waitVerdict (.blockNumberAck 6)
      (some { id := 0x00374711, length := 6, bytes := [0x11, 0x22, 0x33, 0x44, 0x44, 5] }) = .abort ∧
    waitVerdict (.blockNumberAck 6) none = .abort := by decide
/-- A version-only entry named by one character; its handler is a number. -/
def versionEntry (c : Fin 128) (handler : Nat) : CapabilityEntry Nat :=
  { requestName := { chars := [BitVec.ofNat 8 c.val], short := by simp, ascii := by simp [Nat.mod_lt_of_lt] },
    isTransfer := false, pendingSubRequests := 0, localFileName := [], handler := handler }
/-- Three version-only entries, two of one name. -/
def versionTable : List (CapabilityEntry Nat) := [versionEntry 0x41 1, versionEntry 0x42 2, versionEntry 0x41 3]
/-- R145, R148: the first of two matches; the loop ends when both names are served. -/
theorem test_capabilities :
    (lookupCapability versionTable [0x41]).map (·.handler) = some 1 ∧
    (lookupCapability versionTable [0x43]).map (·.handler) = none ∧
    dispatcherDone versionTable [[0x42]] false = false ∧
    dispatcherDone versionTable [[0x42], [0x41]] false = true := by decide
/-- R125: a missing request aborts the config stream, but is its normal end at the final block. -/
theorem test_config_timeout : waitVerdict (.configNextRequest false) none = .abort ∧
    waitVerdict (.configNextRequest true) none = .endOfTransfer := by decide
/-- S4, at a block size of 512. -/
theorem test_block_math : bootVisits 1024 512 4 =
    [(6, 1024), (5, 512), (4, 0), (3, -512), (2, -1024), (1, -1536), (0, -2048)] := by decide
/-- The predicate of 95_test_vectors.md §2.6 on X, Y, Z. -/
theorem test_ping_predicate : isPingResponse (visible frameX) = false ∧
    isPingResponse (visible frameY) = true ∧ isPingResponse (visible frameZ) = false := by decide

/-! ### Witnesses: for each obligation with hypotheses, a state and operands that meet all of them -/

theorem test_wit_encodeOfDecode : ∃ (r : Request) (i : Instr), r.Fits ∧ decode r = .ok i :=
  ⟨{ op := 0x10, arg := 0x1FFFFFF }, .idEncode 0xFF true 0xFFFF, by decide, by decide⟩
theorem test_wit_unassigned : ∃ (r : Request) (s t : State), fetch s = .perform r t ∧ r.op ∉ assignedOps :=
  ⟨{ op := 0xFF, arg := 0 }, { seeded with pending := [aloneFrom .tickSource { op := 0xFF, arg := 0 }] },
    { seeded with issuer := .tickSource }, by decide, by decide⟩
/-- CrcInitSeeds, CrcUpdateFoldsByte, CrcReadAnswersRegister, CrcBlockAnswersCrc16, ClearResetsIndices, TimerClearResetsUnit. -/
theorem test_wit_foreground : agentContext seeded.issuer = .foreground := by decide
theorem test_wit_changedByte : (0x30 : Byte) ≠ 0xB0 := by decide
/-- CrcWrittenOnlyByInitAndUpdate, each clause. -/
theorem test_wit_crcWritten : (∃ t, exec .crcInit { seeded with crc := 0 } = .next t ∧ t.crc ≠ 0) ∧
    (∃ t, exec (.crcUpdate 0xFF) seeded = .next t ∧ t.crc ≠ seeded.crc) ∧ (∃ t, exec .crcRead seeded = .next t) :=
  ⟨⟨_, rfl, by decide⟩, ⟨_, rfl, by decide⟩, ⟨_, rfl⟩⟩
/-- PushStoresAndAdvances, at the last slot and the longest frame. -/
theorem test_wit_push : ∃ s : State, agentContext s.issuer = .producer ∧ frameX.lengthOk ∧ s.full = false ∧
    s.wr < s.cfg.capacity ∧ s.wr + 1 = s.cfg.capacity :=
  ⟨{ threeFrames with issuer := .busProducer }, by decide⟩
theorem test_wit_pushFull : agentContext { fullQueue with issuer := .busProducer }.issuer = .producer ∧ frameZ.lengthOk ∧
    { fullQueue with issuer := .busProducer }.full = true := by decide
theorem test_wit_popEmpty : agentContext seeded.issuer = .foreground ∧ seeded.empty = true := by decide
/-- PopTakesOldest, its second clause too. -/
theorem test_wit_pop : agentContext fullQueue.issuer = .foreground ∧ fullQueue.empty = false ∧
    fullQueue.rd < fullQueue.cfg.capacity ∧ slotGet fullQueue.slots fullQueue.rd = some frameX := by decide
/-- LowRecordsLastIndexChange: an accepted and a refused push, a successful and an empty pop, a clear. -/
theorem test_wit_low :
    (∃ t, exec (.rxqPush frameZ) fromBus = .next t ∧ t.low = true) ∧
    (∃ t, exec (.rxqPush frameZ) { fullQueue with issuer := .busProducer } = .next t ∧ t.low = true) ∧
    (∃ t, exec .rxqPop fullQueue = .next t ∧ t.low = false) ∧ (∃ t, exec .rxqPop seeded = .next t ∧ t.low = false) ∧
    (∃ t, exec .rxqClear fullQueue = .next t ∧ t.low = false) :=
  ⟨⟨_, rfl, rfl⟩, ⟨_, rfl, rfl⟩, ⟨_, rfl, rfl⟩, ⟨_, rfl, rfl⟩, ⟨_, rfl, rfl⟩⟩
/-- StatusFollowsCount, with the indices at the ends of their range. -/
theorem test_wit_indices : IndicesOk fullQueue ∧ IndicesOk { seeded with rd := 3, wr := 0 } := by decide
/-- QueueIsBoundedFifo: with room, full, holding frames, empty. -/
theorem test_wit_fifo : Invariant { threeFrames with issuer := .busProducer } ∧
    Invariant { fullQueue with issuer := .busProducer } ∧ Invariant fullQueue ∧ Invariant seeded ∧ frameX.lengthOk ∧
    queue fullQueue = [some frameX, some frameY, some frameZ, some (frameK 1)] ∧ queue seeded = [] := by decide
/-- ReferenceScenario, FramesDeliveredInOrderOfAcceptance, QueueOperationsCompleteWithoutGrowth. -/
theorem test_wit_scenario : ∃ s : State, Invariant s ∧ s.cfg.capacity = 4 ∧ s.empty = true ∧ s.rd = 3 ∧ frameX.lengthOk ∧
    frameY.lengthOk ∧ frameZ.lengthOk ∧ (frameK 1).lengthOk ∧ (frameK 2).lengthOk :=
  ⟨{ seeded with rd := 3, wr := 3 }, by decide⟩
theorem test_wit_queueOps : Invariant seeded ∧ seeded.empty = true ∧
    ∀ f, QueueOp.push f ∈ [QueueOp.push frameX, .pop, .clear, .push frameZ] → f.lengthOk := by
  refine ⟨by decide, by decide, ?_⟩
  intro f hf
  simp only [List.mem_cons, QueueOp.push.injEq, reduceCtorEq, List.not_mem_nil, or_false, false_or] at hf
  rcases hf with rfl | rfl <;> decide
theorem test_wit_tick : agentContext fromTick.issuer = .producer := by decide
/-- ArmRestartsCounterAndSetsFlag, TestAnswersFlagBit, at both ends of the indices. -/
theorem test_wit_flag : agentContext seeded.issuer = .foreground ∧ flagIndexOk 0 ∧ flagIndexOk 4 := by decide
/-- FlagExpiresExactlyAtThreshold, InvariantHoldsAfterReset, at the narrowest counter. -/
theorem test_wit_valid : tenBits.Valid ∧ Config.reference.Valid ∧ { tenBits with capacity := 1 }.Valid := by decide
/-- ArmingExtendsOtherWindows, SetFlagClearsAfterRemainingTicks. -/
theorem test_wit_window : Invariant window ∧ window.cfg.Valid ∧ flagIndexOk 4 ∧ window.flags.getLsbD 3 = true ∧
    window.flags.getLsbD 1 = true := by decide
theorem test_wit_agree : Invariant { window with issuer := .tickSource } ∧
    ∃ t, exec .tmrTick { window with issuer := .tickSource } = .next t ∧ flagSet t.flags .timeout = false :=
  ⟨by decide, _, rfl, by decide⟩
/-- CounterWidthUnobservable, with a counter that has wrapped. -/
theorem test_wit_width : { fromTick with cfg := tenBits, ticks := 5 }.cfg.Valid ∧
    sameUpToWidth { fromTick with cfg := tenBits, ticks := 5 } { fromTick with ticks := 1029 } ∧
    WindowsOpen { fromTick with ticks := 1029 } ∧
    ∃ t, exec .tmrTick { fromTick with cfg := tenBits, ticks := 5 } = .next t :=
  ⟨by decide, by decide, by decide, _, rfl⟩
/-- NoSingleFlagCancellation, each clause: cleared by a tick, cleared by TMR.CLEAR, set by arming, the counter written. -/
theorem test_wit_cancel :
    (∃ t, exec .tmrTick { window with issuer := .tickSource } = .next t ∧ flagSet window.flags .timeout = true ∧
      flagSet t.flags .timeout = false ∧ t.ticks ≠ window.ticks) ∧
    (∃ t, exec .tmrClear window = .next t ∧ flagSet t.flags .timeout = false ∧ t.ticks ≠ window.ticks) ∧
    (∃ t, exec (.tmrArm 0) window = .next t ∧ flagSet window.flags .lostCard = false ∧
      flagSet t.flags .lostCard = true ∧ t.ticks ≠ window.ticks) :=
  ⟨⟨_, rfl, by decide, by decide, by decide⟩, ⟨_, rfl, by decide, by decide⟩, ⟨_, rfl, by decide, by decide, by decide⟩⟩
/-- RefusedExactlyOutsideTheDomain, each clause. -/
theorem test_wit_refused : contextAllowed (agentContext seeded.issuer) .tmrTick = false ∧
    contextAllowed (agentContext seeded.issuer) (.tmrArm 5) = true ∧ ¬ flagIndexOk 5 ∧
    contextAllowed (agentContext fromBus.issuer) (.rxqPush longFrame) = true ∧ ¬ longFrame.lengthOk ∧
    contextAllowed (agentContext seeded.issuer) (.tmrTest 4) = true ∧ (Instr.tmrTest 4).wellFormed = true := by decide
/-- UnitsShareNoState: an operation of each group. -/
theorem test_wit_share : (∃ t, exec (.crcUpdate 1) seeded = .next t) ∧ (∃ t, exec (.idDecode 1) seeded = .next t) ∧
    (∃ t, exec .rxqPop fullQueue = .next t) ∧ (∃ t, exec (.tmrArm 4) window = .next t) :=
  ⟨⟨_, rfl⟩, ⟨_, rfl⟩, ⟨_, rfl⟩, ⟨_, rfl⟩⟩
/-- EveryStepKeepsTheInvariant, NoStepFaults, EveryStepCompletesUnderTheContract, StepRunsTheDecodedOperation. -/
theorem test_wit_step :
    Invariant { fullQueue with pending := [aloneFrom .foreground { op := 0x21, arg := 0 }] } ∧
    DomainKept { fullQueue with pending := [aloneFrom .foreground { op := 0x21, arg := 0 }] } ∧
    ContractKept { fullQueue with pending := [aloneFrom .foreground { op := 0x21, arg := 0 }] } ∧
    decode { op := 0x21, arg := 0 } = .ok .rxqPop ∧
    fetch { fullQueue with pending := [aloneFrom .foreground { op := 0x21, arg := 0 }] }
      = .perform { op := 0x21, arg := 0 } fullQueue ∧
    ∃ t, step { fullQueue with pending := [aloneFrom .foreground { op := 0x21, arg := 0 }] } = .next t :=
  ⟨by decide, by decide, by decide, by decide, by decide, _, rfl⟩
/-- OneProducerOneConsumer: an instant of all three agents, and the premises of its last clause. -/
theorem test_wit_oneProducer :
    arrivalInContract (.requests (some (encode .rxqPop)) (some (encode (.rxqPush frameX))) (some (encode .tmrTick))) = true ∧
    Invariant { seeded with pending := [.requests none (some (encode (.rxqPush frameX))) (some (encode .tmrTick))] } ∧
    decode (encode (.rxqPush frameX)) = .ok (.rxqPush frameX) ∧ decode (encode .tmrTick) = .ok .tmrTick ∧ frameX.lengthOk ∧
    ∃ u, runOps [(.tickSource, .tmrTick), (.busProducer, .rxqPush frameX)]
      { seeded with pending := [.requests none (some (encode (.rxqPush frameX))) (some (encode .tmrTick))] } = .next u :=
  ⟨by decide, by decide, by decide, by decide, by decide, _, rfl⟩
/-- R102: a push of the tick source breaks the contract. -/
theorem test_two_producers : arrivalInContract
    (.requests none (some (encode (.rxqPush frameX))) (some (encode (.rxqPush frameY)))) = false := by decide
/-- ResetEventClearsTheBlock, IdleStepChangesNothing. -/
theorem test_wit_port : { fullQueue with pending := [.reset] }.pending = .reset :: [] ∧ fullQueue.pending = [] := by decide
/-- SimultaneousRequestsServedOneByOne, each clause. -/
theorem test_wit_simultaneous (p q r : Request) :
    { seeded with pending := [.requests (some p) (some q) (some r)] }.pending = .requests (some p) (some q) (some r) :: [] ∧
    { seeded with pending := [.requests (some p) (some q) none] }.pending = .requests (some p) (some q) none :: [] ∧
    { seeded with pending := [.requests (some p) none (some q)] }.pending = .requests (some p) none (some q) :: [] ∧
    { seeded with pending := [.requests none (some p) (some q)] }.pending = .requests none (some p) (some q) :: [] :=
  ⟨rfl, rfl, rfl, rfl⟩
theorem test_wit_pushBesidePop : ∃ s : State, Invariant s ∧ s.full = true ∧ frameX.lengthOk ∧
    s.pending = .requests (some (encode .rxqPop)) (some (encode (.rxqPush frameX))) none :: [] :=
  ⟨{ fullQueue with pending := [.requests (some (encode .rxqPop)) (some (encode (.rxqPush frameX))) none] },
    by decide, by decide, by decide, rfl⟩
theorem test_wit_tickBesideArm : ∃ s : State, s.cfg.Valid ∧
    s.pending = .requests (some (encode (.tmrArm (flagOperand .timeout)))) none (some (encode .tmrTick)) :: [] :=
  ⟨{ seeded with pending := [.requests (some (encode (.tmrArm (flagOperand .timeout)))) none (some (encode .tmrTick))] },
    by decide, rfl⟩
/-- WaitReturnsOnlyAMatch, the clauses on one turn: frames in the queue, none, and a wait that has returned. -/
theorem test_wit_waitTurn : Invariant fullQueue ∧ queue fullQueue = some frameX :: [some frameY, some frameZ, some (frameK 1)] ∧
    Invariant seeded ∧ queue seeded = [] ∧ WaitPhase.timedOut.done = true := by decide
/-- V-WAIT-1 step 7 and step 11: a frame that does not match is consumed, one that matches ends the wait. -/
theorem test_wait_first_match :
    (waitTurn .timeout isPingResponse .foreground (.popping, fullQueue)).map (fun w => (w.1, w.2.rd)) = some (.testing, 1) ∧
    (waitTurn .timeout isPingResponse .foreground (.popping, { fullQueue with rd := 1, low := false })).map
      (fun w => (w.1, w.2.rd)) = some (.matched frameY, 2) := by decide
/-- WaitReturnsOnlyAMatch (V-WAIT-4, without its ticks), the clauses on a whole wait. -/
theorem test_wit_waitMatch :
    (∃ t, waitFor .timeout isPingResponse [.foreground, .push frameY, .foreground, .foreground] (.arming, seeded)
      = some (.matched frameY, t)) ∧
    (∃ p t, blockFor .timeout [.foreground, .push frameY, .foreground, .foreground] (.arming, seeded) = some (p, t)) :=
  ⟨⟨_, rfl⟩, ⟨_, _, rfl⟩⟩
/-- NoTimeoutBeforeTheThreshold (V-WAIT-3 without its pop). -/
theorem test_wit_timeout : seeded.cfg.Valid ∧
    ∃ t, waitFor .timeout isPingResponse [.foreground, .tick, .tick, .tick, .push frameY, .tick, .foreground]
      (.arming, seeded) = some (.timedOut, t) :=
  ⟨by decide, _, rfl⟩
theorem test_wit_waitEnds : Invariant seeded ∧
    (∀ f, Turn.push f ∈ [Turn.tick, .tick, .push frameY, .tick, .foreground, .tick] → f.lengthOk) ∧
    threshold seeded.cfg .timeout ≤ countTicks [Turn.tick, .tick, .push frameY, .tick, .foreground, .tick] := by
  refine ⟨by decide, ?_, by decide⟩
  intro f hf
  simp only [List.mem_cons, Turn.push.injEq, reduceCtorEq, List.not_mem_nil, or_false, false_or] at hf
  subst hf
  decide
/-- IdentityPayloadRoundTrip, each clause: the payload of S5, and the engine's own. -/
theorem test_wit_identity : ∃ (f : Frame) (uid : BitVec 32) (sversion : BitVec 16) (reserved type : Byte),
    f.length = 8#4 ∧ f.data.toList =
      [uid.extractLsb' 24 8, uid.extractLsb' 16 8, uid.extractLsb' 8 8, uid.extractLsb' 0 8,
       sversion.extractLsb' 8 8, sversion.extractLsb' 0 8, reserved, type] :=
  ⟨frameY, 0x11223344, 0x0102, 0x00, typeGfpMs2, by decide⟩
theorem test_wit_identityOwn :
    { frameY with data := #v[0x11, 0x22, 0x33, 0x44, 0x01, 0x02, 0xFF, 0xFF] }.length = 8#4 ∧
    { frameY with data := #v[0x11, 0x22, 0x33, 0x44, 0x01, 0x02, 0xFF, 0xFF] }.data.toList = respPingPayload 0x11223344 0x0102 := by
  decide

end Sys2Proof.Tests
end

section
/-! SUPPORT. Which operations write which unit's state (R10's table of writers), and the frame of `exec` in these terms. -/

namespace Sys2Proof.Proofs

open Sys2Proof Sys2Proof.Machine Sys2Proof.Safety

/-- The writers of CRC (R12). -/
def writesCrc : Instr → Bool
  | .crcInit | .crcUpdate _ => true
  | _ => false

/-- The writers of RD, WR, LOW and the slots (R13 to R15). -/
def writesQueue : Instr → Bool
  | .rxqPush _ | .rxqPop | .rxqClear => true
  | _ => false

/-- The writers of TICKS and FLAGS (R18, R19). -/
def writesTimer : Instr → Bool
  | .tmrTick | .tmrArm _ | .tmrClear => true
  | _ => false

theorem writesCrc_iff {i : Instr} : writesCrc i = true ↔ i = .crcInit ∨ ∃ b, i = .crcUpdate b := by
  cases i <;> simp [writesCrc]

/-- The frame of every operation: a unit that the operation does not write stands as before (R8). -/
theorem exec_frame {i : Instr} {s t : State} (h : exec i s = .next t) :
    (writesCrc i = false → sameCrc s t) ∧ (writesQueue i = false → sameQueue s t) ∧
      (writesTimer i = false → sameTimer s t) := by
  cases i with
  | crcInit =>
    obtain ⟨_, rfl⟩ := execCrcInit_eq_next.mp h
    exact ⟨nofun, fun _ => ⟨rfl, rfl, rfl, rfl⟩, fun _ => ⟨rfl, rfl⟩⟩
  | crcUpdate b =>
    obtain ⟨_, rfl⟩ := execCrcUpdate_eq_next.mp h
    exact ⟨nofun, fun _ => ⟨rfl, rfl, rfl, rfl⟩, fun _ => ⟨rfl, rfl⟩⟩
  | crcRead =>
    obtain ⟨_, rfl⟩ := execCrcRead_eq_next.mp h
    exact ⟨fun _ => rfl, fun _ => ⟨rfl, rfl, rfl, rfl⟩, fun _ => ⟨rfl, rfl⟩⟩
  | idEncode =>
    obtain rfl := execIdEncode_eq_next.mp h
    exact ⟨fun _ => rfl, fun _ => ⟨rfl, rfl, rfl, rfl⟩, fun _ => ⟨rfl, rfl⟩⟩
  | idDecode =>
    obtain rfl := execIdDecode_eq_next.mp h
    exact ⟨fun _ => rfl, fun _ => ⟨rfl, rfl, rfl, rfl⟩, fun _ => ⟨rfl, rfl⟩⟩
  | rxqPush =>
    obtain ⟨_, _, ⟨_, rfl⟩ | ⟨_, _, rfl⟩⟩ := execRxqPush_eq_next.mp h <;>
      exact ⟨fun _ => rfl, nofun, fun _ => ⟨rfl, rfl⟩⟩
  | rxqPop =>
    obtain ⟨_, ⟨_, rfl⟩ | ⟨_, _, rfl⟩⟩ := execRxqPop_eq_next.mp h <;>
      exact ⟨fun _ => rfl, nofun, fun _ => ⟨rfl, rfl⟩⟩
  | rxqClear =>
    obtain ⟨_, rfl⟩ := execRxqClear_eq_next.mp h
    exact ⟨fun _ => rfl, nofun, fun _ => ⟨rfl, rfl⟩⟩
  | tmrTick =>
    obtain ⟨_, rfl⟩ := execTmrTick_eq_next.mp h
    exact ⟨fun _ => rfl, fun _ => ⟨rfl, rfl, rfl, rfl⟩, nofun⟩
  | tmrArm =>
    obtain ⟨_, _, _, rfl⟩ := execTmrArm_eq_next.mp h
    exact ⟨fun _ => rfl, fun _ => ⟨rfl, rfl, rfl, rfl⟩, nofun⟩
  | tmrTest =>
    obtain ⟨_, _, _, rfl⟩ := execTmrTest_eq_next.mp h
    exact ⟨fun _ => rfl, fun _ => ⟨rfl, rfl, rfl, rfl⟩, fun _ => ⟨rfl, rfl⟩⟩
  | tmrClear =>
    obtain ⟨_, rfl⟩ := execTmrClear_eq_next.mp h
    exact ⟨fun _ => rfl, fun _ => ⟨rfl, rfl, rfl, rfl⟩, nofun⟩

theorem exec_keeps_crc {i : Instr} {s t : State} (h : exec i s = .next t) (hi : writesCrc i = false) :
    t.crc = s.crc := (exec_frame h).1 hi

theorem exec_keeps_low {i : Instr} {s t : State} (h : exec i s = .next t) (hi : writesQueue i = false) :
    t.low = s.low := by
  obtain ⟨-, hqueue, -⟩ := exec_frame h
  obtain ⟨-, -, hlow, -⟩ := hqueue hi
  exact hlow

/-! ### The statements -/

/-- Settles O17: the frame leaves only the two writers, and each CRC operation's inversion lemma gives its value. -/
theorem crcWrittenOnlyByInitAndUpdate : Obligations.CrcWrittenOnlyByInitAndUpdate := by
  intro i s t h
  refine ⟨fun hchanged => ?_, ?_, ?_, ?_⟩
  · have hwrites : writesCrc i ≠ false := fun hi => hchanged (exec_keeps_crc h hi)
    exact writesCrc_iff.mp (Bool.eq_true_of_not_eq_false hwrites)
  · rintro rfl
    obtain ⟨_, rfl⟩ := execCrcInit_eq_next.mp h
    rfl
  · rintro b rfl
    obtain ⟨_, rfl⟩ := execCrcUpdate_eq_next.mp h
    rfl
  · rintro rfl
    obtain ⟨_, rfl⟩ := execCrcRead_eq_next.mp h
    exact ⟨rfl, rfl⟩

/-- Settles O27: the queue's operations by their inversion lemmas, both outcomes of a push and of a pop; the others by the
frame. -/
theorem lowRecordsLastIndexChange : Obligations.LowRecordsLastIndexChange := by
  intro i s t h
  cases i with
  | rxqPush => obtain ⟨_, _, ⟨_, rfl⟩ | ⟨_, _, rfl⟩⟩ := execRxqPush_eq_next.mp h <;> rfl
  | rxqPop => obtain ⟨_, ⟨_, rfl⟩ | ⟨_, _, rfl⟩⟩ := execRxqPop_eq_next.mp h <;> rfl
  | rxqClear => obtain ⟨_, rfl⟩ := execRxqClear_eq_next.mp h; rfl
  | _ => exact exec_keeps_low h rfl

end Sys2Proof.Proofs
end

section
/-! SUPPORT. What an issued CRC operation answers, and what a run of updates closed by a read leaves (R70 to R73). -/

namespace Sys2Proof.Proofs

open Sys2Proof Sys2Proof.Machine Sys2Proof.Safety

theorem issue_crcInit (s : State) : issue .foreground .crcInit s = .next { s with
    crc := crcSeed
    issuer := .foreground
    out := { result := .none, overflow := false } } :=
  (execCrcInit_eq_next (s := { s with issuer := .foreground })).mpr ⟨rfl, rfl⟩

theorem issue_crcUpdate (b : Byte) (s : State) : issue .foreground (.crcUpdate b) s = .next { s with
    crc := crcStep s.crc b
    issuer := .foreground
    out := { result := .none, overflow := false } } :=
  (execCrcUpdate_eq_next (s := { s with issuer := .foreground })).mpr ⟨rfl, rfl⟩

theorem issue_crcRead (s : State) : issue .foreground .crcRead s = .next { s with
    issuer := .foreground
    out := { result := .crc s.crc, overflow := false } } :=
  (execCrcRead_eq_next (s := { s with issuer := .foreground })).mpr ⟨rfl, rfl⟩

theorem runOps_cons {a : Agent} {i : Instr} {rest : List (Agent × Instr)} {s t : State} (h : issue a i s = .next t) :
    runOps ((a, i) :: rest) s = runOps rest t := by
  simp only [runOps, h]

/-- One update per byte, then a read: the read answers the bytes folded into what the accumulator held. -/
theorem runOps_updates_read (bytes : List Byte) (s : State) :
    runOps (bytes.map (fun b => (Agent.foreground, Instr.crcUpdate b)) ++ [(.foreground, .crcRead)]) s = .next { s with
      crc := bytes.foldl crcStep s.crc
      issuer := .foreground
      out := { result := .crc (bytes.foldl crcStep s.crc), overflow := false } } := by
  induction bytes generalizing s with
  | nil => exact runOps_cons (issue_crcRead s)
  | cons b bytes ih => exact (runOps_cons (issue_crcUpdate b s)).trans (ih _)

/-- R73: whatever came before, the block answers `crc16`, for CRC.INIT puts the fold's seed in the accumulator. -/
theorem runOps_crcBlock (bytes : List Byte) (s : State) : runOps (crcBlock bytes) s = .next { s with
    crc := crc16 bytes
    issuer := .foreground
    out := { result := .crc (crc16 bytes), overflow := false } } :=
  (runOps_cons (issue_crcInit s)).trans (runOps_updates_read bytes _)

theorem crc16_append_singleton (bytes : List Byte) (b : Byte) : crc16 (bytes ++ [b]) = crcStep (crc16 bytes) b :=
  List.foldl_concat crcStep crcSeed b bytes

/-! ### The statements -/

/-- Settles O9: the update by its inversion lemma, the block by the run of its updates from the seed. -/
theorem crcBlockAnswersCrc16 : Obligations.CrcBlockAnswersCrc16 :=
  ⟨fun _ _ hforeground => execCrcUpdate_eq_next.mpr ⟨hforeground, rfl⟩, runOps_crcBlock, rfl, crc16_append_singleton⟩

end Sys2Proof.Proofs
end

section
/-! SUPPORT. The identifier codec bit by bit: where each field stands in an identifier, and that unpacking finds it there
(R80 to R82). -/

namespace Sys2Proof.Proofs

open Sys2Proof Sys2Proof.Machine Sys2Proof.Safety

/-- R80: the three fields occupy disjoint ranges of the identifier; above them `command` has no bit left to read. -/
theorem getLsbD_packId (command : BitVec 8) (responseBit : Bool) (hash : BitVec 16) {i : Nat} (hi : i < 32) :
    (packId command responseBit hash).getLsbD i =
      if i < 16 then hash.getLsbD i else if i = 16 then responseBit else command.getLsbD (i - 17) := by
  rcases lt_trichotomy i 16 with hlow | rfl | hhigh
  · simp [packId, hlow, hi, show i < 17 by omega]
  · simp [packId]
  · have hhash : hash.getLsbD i = false := hash.getLsbD_of_ge i hhigh.le
    have hbit : i - 16 ≠ 0 := Nat.sub_ne_zero_of_lt hhigh
    simp [packId, hi, hhash, hbit, hhigh.not_gt, hhigh.ne', Nat.not_lt.mpr hhigh]

/-- Masking with ones as wide as the field changes nothing that the field keeps. -/
theorem setWidth_and_ones {v w : Nat} {mask : BitVec v} (hmask : mask.setWidth w = BitVec.allOnes w) (x : BitVec v) :
    (x &&& mask).setWidth w = x.setWidth w := by
  rw [BitVec.setWidth_and, hmask, BitVec.and_allOnes]

/-- R81: unpacking is pure bit-slicing. -/
theorem unpackId_eq_bitRanges (id : Carrier) : unpackId id = {
    priority := id.extractLsb' 25 4
    command := id.extractLsb' 17 8
    responseBit := id.getLsbD 16
    hash := id.extractLsb' 0 16 } := by
  have hbit : ((id >>> 16 &&& 1#32) == 1#32) = id.getLsbD 16 := by
    rw [BitVec.and_one_eq_setWidth_ofBool_getLsbD, BitVec.getLsbD_ushiftRight]
    cases id.getLsbD 16 <;> rfl
  rw [unpackId, setWidth_and_ones rfl, setWidth_and_ones rfl, setWidth_and_ones rfl, hbit,
    BitVec.setWidth_ushiftRight_eq_extractLsb, BitVec.setWidth_ushiftRight_eq_extractLsb,
    BitVec.setWidth_eq_extractLsb' (by decide)]

/-- R82: `decode(encode(command, hash, responseBit))` gives the three fields back, and priority 0. -/
theorem unpackId_packId (command : BitVec 8) (responseBit : Bool) (hash : BitVec 16) :
    unpackId (packId command responseBit hash) =
      { priority := 0, command := command, responseBit := responseBit, hash := hash } := by
  rw [unpackId_eq_bitRanges, IdFields.mk.injEq]
  refine ⟨BitVec.eq_of_getLsbD_eq fun i hi => ?priorityBit, BitVec.eq_of_getLsbD_eq fun i hi => ?commandBit,
    getLsbD_packId command responseBit hash (by decide), BitVec.eq_of_getLsbD_eq fun i hi => ?hashBit⟩
  case priorityBit =>
    rw [BitVec.getLsbD_extractLsb', getLsbD_packId _ _ _ (by omega), if_neg (by omega), if_neg (by omega),
      command.getLsbD_of_ge _ (by omega), Bool.and_false]
    exact BitVec.getLsbD_zero.symm
  case commandBit =>
    rw [BitVec.getLsbD_extractLsb', getLsbD_packId _ _ _ (by omega), if_neg (by omega), if_neg (by omega),
      Nat.add_sub_cancel_left, decide_eq_true hi, Bool.true_and]
  case hashBit =>
    rw [BitVec.getLsbD_extractLsb', getLsbD_packId _ _ _ (by omega), if_pos (by omega), Nat.zero_add,
      decide_eq_true hi, Bool.true_and]

/-! ### The statements -/

/-- Settles O20: both operations by their inversion lemmas, the fields by the round trip of the pure functions. -/
theorem idRoundTripThroughTheUnit : Obligations.IdRoundTripThroughTheUnit := fun command responseBit hash _ =>
  ⟨packId command responseBit hash, _, _, execIdEncode_eq_next.mpr rfl, rfl, execIdDecode_eq_next.mpr rfl,
    congrArg Result.fields (unpackId_packId command responseBit hash)⟩

end Sys2Proof.Proofs
end

section
/-! SUPPORT. The queue's bounds (R13, R15, R30): indices and slots stay in range under every operation, the count and the slots
held are then at most the capacity, and a queue operation with its index in range completes. -/

namespace Sys2Proof.Proofs

open Sys2Proof Sys2Proof.Machine Sys2Proof.Safety

/-! ### What the bounds on indices and slots say of sizes -/

theorem count_le_capacity {s : State} (h : IndicesOk s) : s.count ≤ s.cfg.capacity := by
  have hcount := count_linear h
  obtain ⟨hrd, hwr⟩ := h
  split_ifs at hcount <;> omega

/-- The listed indices are distinct numbers below the capacity, so no more than the capacity are listed. -/
theorem slots_length_le_capacity {s : State} (h : SlotsOk s) : s.slots.length ≤ s.cfg.capacity := by
  obtain ⟨hwf, hslots⟩ := h
  have hinRange : s.slots.map Prod.fst ⊆ List.range s.cfg.capacity := by
    intro i hi
    obtain ⟨p, hp, rfl⟩ := List.mem_map.mp hi
    exact List.mem_range.mpr (hslots p hp).1
  simpa using (hwf.nodup.subperm hinRange).length_le

/-! ### The bounds under every operation -/

theorem slotsOk_of_slotPut {s t : State} {i : Nat} {f : Frame} (h : SlotsOk s) (hi : i < s.cfg.capacity)
    (hf : f.lengthOk) (hcfg : t.cfg = s.cfg) (ht : t.slots = slotPut s.slots i f) : SlotsOk t := by
  obtain ⟨hwf, hslots⟩ := h
  rw [SlotsOk, hcfg, ht]
  refine ⟨slotPut_wf hwf i f, fun p hp => ?_⟩
  rcases mem_slotPut hp with rfl | hold
  · exact ⟨hi, hf⟩
  · exact hslots p hold

/-- R13: an index that an operation writes is reduced modulo the capacity, or 0. -/
theorem exec_keeps_indicesOk {i : Instr} {s t : State} (h : exec i s = .next t) (hs : IndicesOk s) : IndicesOk t := by
  obtain ⟨hrd, hwr⟩ := hs
  cases i with
  | rxqPush =>
    obtain ⟨_, _, ⟨_, rfl⟩ | ⟨_, _, rfl⟩⟩ := execRxqPush_eq_next.mp h
    · exact ⟨hrd, hwr⟩
    · exact ⟨hrd, nextIndex_lt hwr⟩
  | rxqPop =>
    obtain ⟨_, ⟨_, rfl⟩ | ⟨_, _, rfl⟩⟩ := execRxqPop_eq_next.mp h
    · exact ⟨hrd, hwr⟩
    · exact ⟨nextIndex_lt hrd, hwr⟩
  | rxqClear =>
    obtain ⟨_, rfl⟩ := execRxqClear_eq_next.mp h
    exact ⟨Nat.zero_lt_of_lt hrd, Nat.zero_lt_of_lt hrd⟩
  | _ =>
    obtain ⟨hcfg, -⟩ := exec_keeps_port h
    obtain ⟨-, hqueue, -⟩ := exec_frame h
    obtain ⟨hrd', hwr', -⟩ := hqueue rfl
    rw [IndicesOk, hcfg, hrd', hwr']
    exact ⟨hrd, hwr⟩

/-- R15, R30: an accepted push stores a legal frame in an existing slot, and nothing else writes a slot. -/
theorem exec_keeps_slotsOk {i : Instr} {s t : State} (h : exec i s = .next t) (hs : SlotsOk s) : SlotsOk t := by
  cases i with
  | rxqPush =>
    obtain ⟨_, hf, ⟨_, rfl⟩ | ⟨_, hwr, rfl⟩⟩ := execRxqPush_eq_next.mp h
    · exact hs
    · exact slotsOk_of_slotPut hs hwr hf rfl rfl
  | rxqPop => obtain ⟨_, ⟨_, rfl⟩ | ⟨_, _, rfl⟩⟩ := execRxqPop_eq_next.mp h <;> exact hs
  | rxqClear => obtain ⟨_, rfl⟩ := execRxqClear_eq_next.mp h; exact hs
  | _ =>
    obtain ⟨hcfg, -⟩ := exec_keeps_port h
    obtain ⟨-, hqueue, -⟩ := exec_frame h
    obtain ⟨-, -, -, hslots⟩ := hqueue rfl
    rw [SlotsOk, hcfg, hslots]
    exact hs

/-! ### Completion -/

theorem execRxqPush_completes {f : Frame} {s : State} (hproducer : agentContext s.issuer = .producer) (hf : f.lengthOk)
    (hwr : s.wr < s.cfg.capacity) : ∃ t, execRxqPush f s = .next t := by
  cases hfull : s.full with
  | true => exact ⟨_, execRxqPush_eq_next.mpr ⟨hproducer, hf, .inl ⟨hfull, rfl⟩⟩⟩
  | false => exact ⟨_, execRxqPush_eq_next.mpr ⟨hproducer, hf, .inr ⟨hfull, hwr, rfl⟩⟩⟩

theorem execRxqPop_completes {s : State} (hforeground : agentContext s.issuer = .foreground)
    (hrd : s.rd < s.cfg.capacity) : ∃ t, execRxqPop s = .next t := by
  cases hempty : s.empty with
  | true => exact ⟨_, execRxqPop_eq_next.mpr ⟨hforeground, .inl ⟨hempty, rfl⟩⟩⟩
  | false => exact ⟨_, execRxqPop_eq_next.mpr ⟨hforeground, .inr ⟨hempty, hrd, rfl⟩⟩⟩

theorem issue_queueInstr_completes {op : QueueOp} {s : State} (hs : IndicesOk s)
    (hlegal : ∀ f, op = .push f → f.lengthOk) :
    ∃ t, issue (queueInstr op).1 (queueInstr op).2 s = .next t := by
  obtain ⟨hrd, hwr⟩ := hs
  cases op with
  | push f => exact execRxqPush_completes (s := { s with issuer := .busProducer }) rfl (hlegal f rfl) hwr
  | pop => exact execRxqPop_completes (s := { s with issuer := .foreground }) rfl hrd
  | clear => exact ⟨_, (execRxqClear_eq_next (s := { s with issuer := .foreground })).mpr ⟨rfl, rfl⟩⟩

/-! ### The statements -/

/-- Settles O32: the operation completes, and the bounds it keeps on the indices and the slots bound the count and the slots
held. -/
theorem queueOperationsCompleteWithoutGrowth : Obligations.QueueOperationsCompleteWithoutGrowth := by
  rintro s op ⟨-, hindices, hslots, -⟩ hlegal
  obtain ⟨t, ht⟩ := issue_queueInstr_completes hindices hlegal
  obtain ⟨hcfg, -⟩ := exec_keeps_port ht
  have hcount : t.count ≤ t.cfg.capacity := count_le_capacity (exec_keeps_indicesOk ht hindices)
  have hlength : t.slots.length ≤ t.cfg.capacity := slots_length_le_capacity (exec_keeps_slotsOk ht hslots)
  exact ⟨t, ht, hcfg, hcfg ▸ hcount, hcfg ▸ hlength⟩

end Sys2Proof.Proofs
end

section
/-! SUPPORT. The port's encoding read back (R48, R54, R55, R60): each field stands in its own bit range, so that taking the
ranges of a packed word and packing the ranges of a word undo each other. -/

namespace Sys2Proof.Proofs

open Sys2Proof Sys2Proof.Machine Sys2Proof.Safety

/-! ### Fields of the argument word -/

/-- A field of the low bits is found again in the wider word that carries it. -/
theorem extractLsb'_setWidth_self {v w : Nat} (hvw : v ≤ w) (x : BitVec v) : (x.setWidth w).extractLsb' 0 v = x := by
  rw [BitVec.extractLsb'_setWidth_of_le (by omega), BitVec.extractLsb'_eq_self]

/-- A word that fits a width is its low bits of that width. -/
theorem setWidth_extractLsb'_of_lt {v w : Nat} {x : BitVec w} (hx : x.toNat < 2 ^ v) :
    (x.extractLsb' 0 v).setWidth w = x := by
  apply BitVec.eq_of_toNat_eq
  rw [BitVec.toNat_setWidth, BitVec.extractLsb'_toNat, Nat.shiftRight_zero, Nat.mod_eq_of_lt hx, Nat.mod_eq_of_lt x.isLt]

theorem ofBool_getLsbD_eq_extractLsb' {w : Nat} (x : BitVec w) (i : Nat) :
    BitVec.ofBool (x.getLsbD i) = x.extractLsb' i 1 := by
  rw [BitVec.getLsbD_eq_extractLsb']
  generalize x.extractLsb' i 1 = bit
  revert bit
  decide

/-! ### The frame record -/

theorem vector8_eta (data : Vector Byte 8) :
    #v[data[0], data[1], data[2], data[3], data[4], data[5], data[6], data[7]] = data := by
  apply Vector.ext
  intro k hk
  interval_cases k <;> rfl

/-- A range of a packed record is that range of the fields side by side. -/
theorem extractLsb'_packFrame (f : Frame) {start len : Nat} (h : start + len ≤ 97) :
    (packFrame f).extractLsb' start len =
      (f.id ++ f.length ++ f.data[0] ++ f.data[1] ++ f.data[2] ++ f.data[3] ++ f.data[4] ++ f.data[5] ++ f.data[6]
        ++ f.data[7]).extractLsb' start len :=
  BitVec.extractLsb'_setWidth_of_le h

theorem unpackFrame_packFrame (f : Frame) : unpackFrame (packFrame f) = f := by
  obtain ⟨id, length, data⟩ := f
  rw [unpackFrame, Frame.mk.injEq]
  refine ⟨?_, ?_, Eq.trans ?_ (vector8_eta data)⟩ <;>
    simp [recordByte, extractLsb'_packFrame, BitVec.extractLsb'_append_eq_of_le, BitVec.extractLsb'_append_eq_of_add_le,
      -Nat.reduceAdd]

theorem packFrame_unpackFrame (w : BitVec 97) : packFrame (unpackFrame w) = w := by
  have hranges : packFrame (unpackFrame w) = (w.extractLsb' 0 97).setWidth 97 := by
    simp [packFrame, unpackFrame, recordByte, BitVec.extractLsb'_append_extractLsb'_eq_extractLsb', -Nat.reduceAdd,
      -BitVec.setWidth_eq]
  rw [hranges, BitVec.extractLsb'_eq_self, BitVec.setWidth_eq]

/-! ### Decoding -/

/-- Format E (R55): `command`, `responseBit` and `hash` stand side by side in the argument word. -/
theorem idEncode_arg_ranges (command : BitVec 8) (responseBit : Bool) (hash : BitVec 16) :
    let arg := (encode (.idEncode command responseBit hash)).arg
    arg.extractLsb' 17 8 = command ∧ arg.getLsbD 16 = responseBit ∧ arg.extractLsb' 0 16 = hash := by
  have hrange : ∀ {start len : Nat}, start + len ≤ 97 →
      (encode (.idEncode command responseBit hash)).arg.extractLsb' start len =
        (command ++ BitVec.ofBool responseBit ++ hash).extractLsb' start len :=
    BitVec.extractLsb'_setWidth_of_le
  refine ⟨?_, ?_, ?_⟩
  · simp [hrange, BitVec.extractLsb'_append_eq_of_le, -Nat.reduceAdd]
  · rw [BitVec.getLsbD_eq_extractLsb', hrange (by decide), BitVec.extractLsb'_append_eq_of_le le_rfl,
      BitVec.extractLsb'_append_eq_right]
    cases responseBit <;> rfl
  · simp [hrange, BitVec.extractLsb'_append_eq_of_add_le, -Nat.reduceAdd]

theorem decode_encode (i : Instr) : decode (encode i) = .ok i := by
  cases i with
  | crcUpdate byte => exact congrArg (Except.ok ∘ Instr.crcUpdate) (extractLsb'_setWidth_self (by decide) byte)
  | idEncode command responseBit hash =>
    obtain ⟨hcommand, hbit, hhash⟩ := idEncode_arg_ranges command responseBit hash
    exact congrArg Except.ok (Instr.idEncode.injEq .. ▸ ⟨hcommand, hbit, hhash⟩)
  | idDecode id => exact congrArg (Except.ok ∘ Instr.idDecode) (extractLsb'_setWidth_self (by decide) id)
  | rxqPush frame => exact congrArg (Except.ok ∘ Instr.rxqPush) (unpackFrame_packFrame frame)
  | tmrArm flag => exact congrArg (Except.ok ∘ Instr.tmrArm) (extractLsb'_setWidth_self (by decide) flag)
  | tmrTest flag => exact congrArg (Except.ok ∘ Instr.tmrTest) (extractLsb'_setWidth_self (by decide) flag)
  | _ => rfl

theorem op_eq_of_toNat {r : Request} {n : Nat} (h : r.op.toNat = n) : r.op = BitVec.ofNat 8 n := by
  rw [← h, BitVec.ofNat_toNat, BitVec.setWidth_eq]

theorem request_eq {r : Request} {n : Nat} {arg : BitVec 97} (hop : r.op.toNat = n) (harg : arg = r.arg) :
    { op := BitVec.ofNat 8 n, arg := arg } = r := by
  rw [← op_eq_of_toNat hop, harg]

theorem zero_eq_arg {arg : BitVec 97} (h : arg.toNat < 2 ^ 0) : 0 = arg :=
  BitVec.eq_of_toNat_eq (Nat.lt_one_iff.mp h).symm

/-- R64: the format of an `op` has no bit to spare, so a request that fits it is the one its operation encodes to. -/
theorem encode_of_decode {r : Request} {i : Instr} (hfits : r.Fits) (h : decode r = .ok i) : encode i = r := by
  unfold Request.Fits argWidth at hfits
  unfold decode at h
  split at h <;> cases h <;> rename_i hop <;> simp only [hop] at hfits <;> apply request_eq hop
  case h_2 | h_5 | h_10 | h_11 => exact setWidth_extractLsb'_of_lt hfits
  case h_4 =>
    rw [ofBool_getLsbD_eq_extractLsb', BitVec.extractLsb'_append_extractLsb'_eq_extractLsb' (show 17 = 16 + 1 by decide),
      BitVec.extractLsb'_append_extractLsb'_eq_extractLsb' (Nat.zero_add 16).symm]
    exact setWidth_extractLsb'_of_lt hfits
  case h_6 => exact packFrame_unpackFrame r.arg
  all_goals exact zero_eq_arg hfits

/-- R61: the decoder looks at nothing but `op` to accept a request. -/
theorem decode_isOk_iff (r : Request) : (∃ i, decode r = .ok i) ↔ r.op ∈ assignedOps := by
  constructor
  · rintro ⟨i, h⟩
    unfold decode at h
    split at h <;> cases h <;> rename_i hop <;> rw [op_eq_of_toNat hop] <;> decide
  · obtain ⟨op, arg⟩ := r
    intro h
    simp only [assignedOps, List.mem_cons, List.not_mem_nil, or_false] at h
    rcases h with rfl | rfl | rfl | rfl | rfl | rfl | rfl | rfl | rfl | rfl | rfl | rfl <;> exact ⟨_, rfl⟩

/-- R62: the one way to be refused by the decoder. -/
theorem decode_eq_error {r : Request} {e : DecodeError} (h : decode r = .error e) : e = .unassignedOp r.op := by
  unfold decode at h
  split at h <;> cases h
  rfl

theorem perform_of_ok {r : Request} {i : Instr} (h : decode r = .ok i) (s : State) : perform r s = exec i s := by
  simp only [perform, h]

theorem perform_of_unassigned {r : Request} (h : r.op ∉ assignedOps) (s : State) :
    perform r s = .refused (.unassignedOp r.op) := by
  cases hdecode : decode r with
  | ok i => exact absurd ((decode_isOk_iff r).mp ⟨i, hdecode⟩) h
  | error e =>
    obtain rfl := decode_eq_error hdecode
    simp only [perform, hdecode]

theorem step_of_perform {s t : State} {r : Request} (h : fetch s = .perform r t) : step s = perform r t := by
  simp only [step, h]

/-! ### The statements -/

/-- Settles O1: each operand is found again in its range of the argument word. -/
theorem decodeOfEncode : Obligations.DecodeOfEncode := decode_encode

/-- Settles O2: per `op`, the ranges the decoder reads are all the bits the format has. -/
theorem encodeOfDecode : Obligations.EncodeOfDecode := fun _ _ => encode_of_decode

/-- Settles O3: the decoder accepts the twelve `op` values alone, and the step refuses what it does not accept. -/
theorem unassignedOpsRefused : Obligations.UnassignedOpsRefused :=
  ⟨decode_isOk_iff, fun _ _ t hfetch hop => (step_of_perform hfetch).trans (perform_of_unassigned hop t)⟩

/-- Settles O4: the two directions of the packing. -/
theorem frameRecordRoundTrip : Obligations.FrameRecordRoundTrip := ⟨unpackFrame_packFrame, packFrame_unpackFrame⟩

/-- Settles O5: the four words are what the encoder presents for these operations. -/
theorem specWordsDecode : Obligations.SpecWordsDecode :=
  ⟨decode_encode (.crcUpdate 0x31), decode_encode (.idEncode 0x18 true 0x4711),
    decode_encode (.rxqPush { id := 0x00304711, length := 1, data := #v[1, 0, 0, 0, 0, 0, 0, 0] }),
    decode_encode (.tmrArm 3)⟩

end Sys2Proof.Proofs
end

section
/-! SUPPORT. The abstract queue under the RXQ operations (R16, R17, R98): the count follows the status, an accepted push appends
its frame, a pop takes the head, and everything else of the state leaves the queue alone. -/

namespace Sys2Proof.Proofs

open Sys2Proof Sys2Proof.Machine Sys2Proof.Safety

theorem valid_of_invariant {s : State} (h : Invariant s) : s.cfg.Valid := h.1

theorem indicesOk_of_invariant {s : State} (h : Invariant s) : IndicesOk s := h.2.1

/-! ### Status and count -/

theorem empty_iff_count {s : State} (h : IndicesOk s) : s.empty = true ↔ s.count = 0 := by
  have hcount := count_linear h
  obtain ⟨hrd, hwr⟩ := h
  rw [empty_iff]
  grind

theorem full_iff_count {s : State} (h : IndicesOk s) : s.full = true ↔ s.count = s.cfg.capacity := by
  have hcount := count_linear h
  obtain ⟨hrd, hwr⟩ := h
  rw [full_iff]
  grind

/-! ### The abstract queue -/

theorem length_queue (s : State) : (queue s).length = s.count := by
  simp [queue]

theorem queue_eq_nil_iff {s : State} (h : IndicesOk s) : queue s = [] ↔ s.empty = true := by
  rw [empty_iff_count h, ← length_queue, List.length_eq_zero_iff]

theorem length_queue_lt_iff {s : State} (h : IndicesOk s) : (queue s).length < s.cfg.capacity ↔ s.full = false := by
  rw [length_queue, ← Bool.not_eq_true, full_iff_count h]
  exact (count_le_capacity h).lt_iff_ne

theorem liveWritten_iff {s : State} : LiveWritten s ↔ ∀ x ∈ queue s, x.isSome := by
  simp [queue, LiveWritten]

theorem queue_congr {s t : State} (hcfg : t.cfg = s.cfg) (h : sameQueue s t) : queue t = queue s := by
  obtain ⟨hrd, hwr, hlow, hslots⟩ := h
  simp only [queue, State.count, State.liveIndex, hcfg, hrd, hwr, hlow, hslots]

/-- An accepted push appends: the live slots before stay live and unwritten, and the new frame's slot comes after them. -/
theorem queue_of_accepted {s t : State} {f : Frame} (hs : IndicesOk s) (hfull : s.full = false) (hcfg : t.cfg = s.cfg)
    (hrd : t.rd = s.rd) (hwr : t.wr = nextIndex s.cfg s.wr) (hlow : t.low = true)
    (hslots : t.slots = slotPut s.slots s.wr f) : queue t = queue s ++ [some f] := by
  have hcount : t.count = s.count + 1 := by
    have hs' := count_linear hs
    have ht' := count_linear (s := t) ⟨by rw [hrd, hcfg]; exact hs.1, by rw [hwr, hcfg]; exact nextIndex_lt hs.2⟩
    have hnotFull : ¬ (s.rd = s.wr ∧ s.low = true) := by rw [← full_iff, hfull]; exact Bool.false_ne_true
    have hnext := nextIndex_linear hs.2
    obtain ⟨hsrd, hswr⟩ := hs
    grind
  have hlive : ∀ k, t.liveIndex k = s.liveIndex k := fun k => by rw [State.liveIndex, State.liveIndex, hrd, hcfg]
  rw [queue, queue, hcount, List.range_succ, List.map_append, hslots]
  congr 1
  · refine List.map_congr_left fun k hk => ?_
    rw [hlive, slotGet_slotPut_of_ne _ _ (liveIndex_ne_wr hs hfull (List.mem_range.mp hk))]
  · rw [List.map_singleton, hlive, liveIndex_count hs, slotGet_slotPut_self]

/-- A pop takes the head: what was `live(k+1)` is `live(k)`. -/
theorem queue_eq_cons_of_popped {s t : State} (hs : IndicesOk s) (hempty : s.empty = false) (hcfg : t.cfg = s.cfg)
    (hrd : t.rd = nextIndex s.cfg s.rd) (hwr : t.wr = s.wr) (hlow : t.low = false) (hslots : t.slots = s.slots) :
    queue s = slotGet s.slots s.rd :: queue t := by
  have hcount : s.count = t.count + 1 := by
    have hs' := count_linear hs
    have ht' := count_linear (s := t) ⟨by rw [hrd, hcfg]; exact nextIndex_lt hs.1, by rw [hwr, hcfg]; exact hs.2⟩
    have hnotEmpty : ¬ (s.rd = s.wr ∧ s.low = false) := by rw [← empty_iff, hempty]; exact Bool.false_ne_true
    have hnext := nextIndex_linear hs.1
    obtain ⟨hsrd, hswr⟩ := hs
    grind
  have hhead : s.liveIndex 0 = s.rd := Nat.mod_eq_of_lt hs.1
  have hlive : ∀ k, s.liveIndex (k + 1) = t.liveIndex k := by
    intro k
    rw [State.liveIndex, State.liveIndex, hrd, hcfg, nextIndex, Nat.mod_add_mod, Nat.add_right_comm, Nat.add_assoc]
  rw [queue, hcount, List.range_succ_eq_map, List.map_cons, hhead, List.map_map, queue, hslots]
  simp only [Function.comp_def, Nat.succ_eq_add_one, hlive]

theorem queue_of_cleared {t : State} (hrd : t.rd = 0) (hwr : t.wr = 0) (hlow : t.low = false) : queue t = [] := by
  simp [queue, State.count, hrd, hwr, hlow]

/-! ### What each operation does to the queue -/

theorem queue_push {s t : State} {f : Frame} (hs : IndicesOk s) (h : execRxqPush f s = .next t) :
    (s.full = true ∧ t.out = { result := .accepted false, overflow := true } ∧ queue t = queue s) ∨
    (s.full = false ∧ t.out = { result := .accepted true, overflow := false } ∧ queue t = queue s ++ [some f]) := by
  obtain ⟨_, _, ⟨hfull, rfl⟩ | ⟨hfull, _, rfl⟩⟩ := execRxqPush_eq_next.mp h
  · exact .inl ⟨hfull, rfl, rfl⟩
  · exact .inr ⟨hfull, rfl, queue_of_accepted hs hfull rfl rfl rfl rfl rfl⟩

theorem queue_pop {s t : State} (hs : IndicesOk s) (h : execRxqPop s = .next t) :
    (queue s = [] ∧ (∃ g, t.out.result = .popped false g) ∧ queue t = []) ∨
    (queue s = slotGet s.slots s.rd :: queue t ∧
      t.out.result = .popped true (observedFrame (slotGet s.slots s.rd) (drawnFrame s))) := by
  obtain ⟨_, ⟨hempty, rfl⟩ | ⟨hempty, _, rfl⟩⟩ := execRxqPop_eq_next.mp h
  · have hnil : queue s = [] := (queue_eq_nil_iff hs).mpr hempty
    exact .inl ⟨hnil, ⟨_, rfl⟩, hnil⟩
  · exact .inr ⟨queue_eq_cons_of_popped hs hempty rfl rfl rfl rfl rfl, rfl⟩

theorem queue_clear {s t : State} (h : execRxqClear s = .next t) : queue t = [] := by
  obtain ⟨_, rfl⟩ := execRxqClear_eq_next.mp h
  exact queue_of_cleared rfl rfl rfl

/-- With every live slot written, a pop of a queue that is not empty answers what is visible of its head. -/
theorem pop_answers_head {s t : State} (hs : IndicesOk s) (hlive : LiveWritten s) (h : execRxqPop s = .next t)
    {oldest : Option Frame} {rest : List (Option Frame)} (hqueue : queue s = oldest :: rest) :
    (∃ f g, oldest = some f ∧ t.out.result = .popped true g ∧ visible g = visible f) ∧ queue t = rest := by
  obtain ⟨hnil, -⟩ | ⟨hcons, hresult⟩ := queue_pop hs h
  · rw [hnil] at hqueue
    cases hqueue
  · obtain ⟨hhead, htail⟩ := List.cons.inj (hcons.symm.trans hqueue)
    have hwritten : oldest.isSome := liveWritten_iff.mp hlive oldest (hqueue ▸ List.mem_cons_self)
    obtain ⟨f, rfl⟩ := Option.isSome_iff_exists.mp hwritten
    rw [hhead] at hresult
    exact ⟨⟨f, _, rfl, hresult, visible_observedFrame f _⟩, htail⟩

/-! ### The statements -/

/-- Settles O29: each operation completes, and the rules above say what it does to the queue. -/
theorem queueIsBoundedFifo : Obligations.QueueIsBoundedFifo := by
  rintro s ⟨-, hindices, -, hlive, -⟩
  refine ⟨fun f hproducer hf => ?push, fun hforeground => ?pop, fun hforeground => ?clear⟩
  case push =>
    obtain ⟨t, ht⟩ := execRxqPush_completes hproducer hf hindices.2
    refine ⟨t, ht, ?_⟩
    obtain ⟨hfull, hdropped⟩ | ⟨hfull, haccepted⟩ := queue_push hindices ht
    · rwa [if_neg (by rw [length_queue_lt_iff hindices, hfull]; exact Bool.true_eq_false.mp)]
    · rwa [if_pos ((length_queue_lt_iff hindices).mpr hfull)]
  case pop =>
    obtain ⟨t, ht⟩ := execRxqPop_completes hforeground hindices.1
    refine ⟨t, ht, ?_⟩
    cases hqueue : queue s with
    | nil =>
      obtain ⟨-, hnone⟩ | ⟨hcons, -⟩ := queue_pop hindices ht
      · exact hnone
      · rw [hqueue] at hcons
        cases hcons
    | cons oldest rest => exact pop_answers_head hindices hlive ht hqueue
  case clear => exact ⟨_, execRxqClear_eq_next.mpr ⟨hforeground, rfl⟩, queue_of_cleared rfl rfl rfl⟩

/-- Settles O28: the count without remainders. -/
theorem statusFollowsCount : Obligations.StatusFollowsCount := fun _ h =>
  ⟨count_le_capacity h, empty_iff_count h, full_iff_count h⟩

/-- Settles O22: the push's success branch, and the slot memory's read-after-write rules. -/
theorem pushStoresAndAdvances : Obligations.PushStoresAndAdvances := fun f s hproducer hf hfull hwr =>
  ⟨execRxqPush_eq_next.mpr ⟨hproducer, hf, .inr ⟨hfull, hwr, rfl⟩⟩, slotGet_slotPut_self s.slots s.wr f,
    fun _ hk => slotGet_slotPut_of_ne s.slots f hk⟩

/-- Settles O23: the push's other branch. -/
theorem pushOnFullDropsNewest : Obligations.PushOnFullDropsNewest := fun _ _ hproducer hf hfull =>
  execRxqPush_eq_next.mpr ⟨hproducer, hf, .inl ⟨hfull, rfl⟩⟩

/-- Settles O24: the pop's empty branch. -/
theorem popOfEmptyAnswersNone : Obligations.PopOfEmptyAnswersNone := fun _ hforeground hempty =>
  ⟨_, execRxqPop_eq_next.mpr ⟨hforeground, .inl ⟨hempty, rfl⟩⟩⟩

/-- Settles O25: the pop's other branch; of a stored frame, a reader sees what was stored. -/
theorem popTakesOldest : Obligations.PopTakesOldest := fun s hforeground hempty hrd =>
  ⟨_, execRxqPop_eq_next.mpr ⟨hforeground, .inr ⟨hempty, hrd, rfl⟩⟩, fun f hf => by
    rw [hf, visible_observedFrame f (drawnFrame s)]⟩

/-- Settles O26: the clear by its inversion lemma. -/
theorem clearResetsIndices : Obligations.ClearResetsIndices := fun _ hforeground =>
  execRxqClear_eq_next.mpr ⟨hforeground, rfl⟩

end Sys2Proof.Proofs
end

section
/-! SUPPORT. When an operation completes and when it is refused (R163, R169, R170), what a step finds at the port (R11, R40,
R168), and that the block's invariant and what the environment promises go on from step to step. -/

namespace Sys2Proof.Proofs

open Sys2Proof Sys2Proof.Machine Sys2Proof.Safety

/-! ### Completion and refusal -/

/-- From a context of R170's table a well-formed operation completes, or it is a queue operation whose index names no slot. -/
theorem exec_completes_or_faults {i : Instr} {s : State} (hallowed : contextAllowed (agentContext s.issuer) i = true)
    (hwellFormed : i.wellFormed = true) :
    (∃ t, exec i s = .next t) ∨ (¬ IndicesOk s ∧ ∃ k, exec i s = .fault (.noSuchSlot k)) := by
  cases i with
  | crcInit => exact .inl ⟨_, execCrcInit_eq_next.mpr ⟨eq_of_beq hallowed, rfl⟩⟩
  | crcUpdate => exact .inl ⟨_, execCrcUpdate_eq_next.mpr ⟨eq_of_beq hallowed, rfl⟩⟩
  | crcRead => exact .inl ⟨_, execCrcRead_eq_next.mpr ⟨eq_of_beq hallowed, rfl⟩⟩
  | idEncode => exact .inl ⟨_, execIdEncode_eq_next.mpr rfl⟩
  | idDecode => exact .inl ⟨_, execIdDecode_eq_next.mpr rfl⟩
  | rxqPush f =>
    have hf : f.lengthOk := of_decide_eq_true hwellFormed
    by_cases hwr : s.wr < s.cfg.capacity
    · exact .inl (execRxqPush_completes (eq_of_beq hallowed) hf hwr)
    · cases hfull : s.full with
      | true => exact .inl ⟨_, execRxqPush_eq_next.mpr ⟨eq_of_beq hallowed, hf, .inl ⟨hfull, rfl⟩⟩⟩
      | false =>
        refine .inr ⟨fun h => hwr h.2, s.wr, ?_⟩
        rw [exec, execRxqPush, inContext_of_eq (eq_of_beq hallowed), if_neg (not_not_intro hf),
          if_neg (by rw [hfull]; exact Bool.false_ne_true), atSlot, if_neg hwr]
  | rxqPop =>
    by_cases hrd : s.rd < s.cfg.capacity
    · exact .inl (execRxqPop_completes (eq_of_beq hallowed) hrd)
    · cases hempty : s.empty with
      | true => exact .inl ⟨_, execRxqPop_eq_next.mpr ⟨eq_of_beq hallowed, .inl ⟨hempty, rfl⟩⟩⟩
      | false =>
        refine .inr ⟨fun h => hrd h.1, s.rd, ?_⟩
        rw [exec, execRxqPop, inContext_of_eq (eq_of_beq hallowed), if_neg (by rw [hempty]; exact Bool.false_ne_true),
          atSlot, if_neg hrd]
  | rxqClear => exact .inl ⟨_, execRxqClear_eq_next.mpr ⟨eq_of_beq hallowed, rfl⟩⟩
  | tmrTick => exact .inl ⟨_, execTmrTick_eq_next.mpr ⟨eq_of_beq hallowed, rfl⟩⟩
  | tmrArm k =>
    obtain ⟨f, hf, -⟩ := flagOfIndex_isSome (of_decide_eq_true hwellFormed)
    exact .inl ⟨_, execTmrArm_eq_next.mpr ⟨eq_of_beq hallowed, f, hf, rfl⟩⟩
  | tmrTest k =>
    obtain ⟨f, hf, -⟩ := flagOfIndex_isSome (of_decide_eq_true hwellFormed)
    exact .inl ⟨_, execTmrTest_eq_next.mpr ⟨eq_of_beq hallowed, f, hf, rfl⟩⟩
  | tmrClear => exact .inl ⟨_, execTmrClear_eq_next.mpr ⟨eq_of_beq hallowed, rfl⟩⟩

theorem exec_completes {i : Instr} {s : State} (hs : IndicesOk s)
    (hallowed : contextAllowed (agentContext s.issuer) i = true) (hwellFormed : i.wellFormed = true) :
    ∃ t, exec i s = .next t :=
  (exec_completes_or_faults hallowed hwellFormed).resolve_right fun h => h.1 hs

theorem exec_wrongContext {i : Instr} {s : State} (h : contextAllowed (agentContext s.issuer) i = false) :
    exec i s = .refused .wrongContext := by
  cases i with
  | idEncode => cases h
  | idDecode => cases h
  | _ => exact inContext_of_ne (ne_of_beq_false h)

theorem withFlag_of_not_ok {k : BitVec 3} (h : ¬ flagIndexOk k) (body : Flag → Out) :
    withFlag k body = .refused (.noSuchFlag k) := by
  rw [withFlag, flagOfIndex_eq_none.mpr h]

theorem exec_tmrArm_noSuchFlag {k : BitVec 3} {s : State}
    (hallowed : contextAllowed (agentContext s.issuer) (.tmrArm k) = true) (h : ¬ flagIndexOk k) : exec (.tmrArm k) s = .refused (.noSuchFlag k) :=
  (inContext_of_eq (eq_of_beq hallowed)).trans (withFlag_of_not_ok h _)

theorem exec_tmrTest_noSuchFlag {k : BitVec 3} {s : State}
    (hallowed : contextAllowed (agentContext s.issuer) (.tmrTest k) = true) (h : ¬ flagIndexOk k) :
    exec (.tmrTest k) s = .refused (.noSuchFlag k) :=
  (inContext_of_eq (eq_of_beq hallowed)).trans (withFlag_of_not_ok h _)

theorem exec_rxqPush_badLength {f : Frame} {s : State}
    (hallowed : contextAllowed (agentContext s.issuer) (.rxqPush f) = true) (h : ¬ f.lengthOk) :
    exec (.rxqPush f) s = .refused (.badLength f.length) :=
  (inContext_of_eq (eq_of_beq hallowed)).trans (if_pos h)

/-- An operation whose operand is out of range is one of three, and is refused for it. -/
theorem exec_illFormed {i : Instr} {s : State} (hallowed : contextAllowed (agentContext s.issuer) i = true)
    (h : i.wellFormed = false) : ∃ r, exec i s = .refused r := by
  cases i with
  | rxqPush f => exact ⟨_, exec_rxqPush_badLength hallowed (of_decide_eq_false h)⟩
  | tmrArm k => exact ⟨_, exec_tmrArm_noSuchFlag hallowed (of_decide_eq_false h)⟩
  | tmrTest k => exact ⟨_, exec_tmrTest_noSuchFlag hallowed (of_decide_eq_false h)⟩
  | _ => cases h

/-- R165: with both indices in range no operation faults. -/
theorem exec_ne_fault {i : Instr} {s : State} (hs : IndicesOk s) (r : Fault) : exec i s ≠ .fault r := by
  cases hallowed : contextAllowed (agentContext s.issuer) i with
  | false => rw [exec_wrongContext hallowed]; exact nofun
  | true =>
    cases hwellFormed : i.wellFormed with
    | false => obtain ⟨_, h⟩ := exec_illFormed hallowed hwellFormed; rw [h]; exact nofun
    | true => obtain ⟨_, h⟩ := exec_completes hs hallowed hwellFormed; rw [h]; exact nofun

/-! ### The invariant under the operations -/

/-- R15: an accepted push writes the one slot that becomes live, and no other operation makes a slot live. -/
theorem exec_keeps_liveWritten {i : Instr} {s t : State} (hs : IndicesOk s) (hlive : LiveWritten s)
    (h : exec i s = .next t) : LiveWritten t := by
  rw [liveWritten_iff] at hlive ⊢
  cases i with
  | rxqPush f =>
    obtain ⟨-, -, hqueue⟩ | ⟨-, -, hqueue⟩ := queue_push hs h
    · rwa [hqueue]
    · rw [hqueue]
      intro x hx
      rcases List.mem_append.mp hx with hx | hx
      · exact hlive x hx
      · rw [List.mem_singleton.mp hx]; rfl
  | rxqPop =>
    obtain ⟨-, -, hqueue⟩ | ⟨hqueue, -⟩ := queue_pop hs h
    · rw [hqueue]; exact nofun
    · exact fun x hx => hlive x (hqueue ▸ List.mem_cons_of_mem _ hx)
  | rxqClear => rw [queue_clear h]; exact nofun
  | _ =>
    obtain ⟨hcfg, -⟩ := exec_keeps_port h
    obtain ⟨-, hqueue, -⟩ := exec_frame h
    rwa [queue_congr hcfg (hqueue rfl)]

/-- R21: a tick clears a flag before the counter passes its threshold; an arming and a clear put the counter below every
threshold. -/
theorem exec_keeps_windowsOpen {i : Instr} {s t : State} (hvalid : s.cfg.Valid) (hwindows : WindowsOpen s)
    (h : exec i s = .next t) : WindowsOpen t := by
  cases i with
  | tmrTick =>
    obtain ⟨_, rfl⟩ := execTmrTick_eq_next.mp h
    intro f hf hset
    simp only [flagSet_expireFlags, Bool.and_eq_true, decide_eq_true_eq] at hset
    obtain ⟨hset, hne⟩ := hset
    have hlt := hwindows f hf hset
    simp only [nextTick_of_lt hvalid hlt] at hne ⊢
    omega
  | tmrArm k =>
    obtain ⟨_, _, _, rfl⟩ := execTmrArm_eq_next.mp h
    intro f _ _
    exact Nat.zero_lt_of_lt (threshold_pos hvalid f)
  | tmrClear =>
    obtain ⟨_, rfl⟩ := execTmrClear_eq_next.mp h
    intro f _ hset
    exact absurd ((flagSet_zero f).symm.trans hset) Bool.false_ne_true
  | _ =>
    obtain ⟨hcfg, -⟩ := exec_keeps_port h
    obtain ⟨-, -, htimer⟩ := exec_frame h
    obtain ⟨hticks, hflags⟩ := htimer rfl
    rw [WindowsOpen, hcfg, hticks, hflags]
    exact hwindows

theorem nextTick_fits (c : Config) (n : Nat) : c.tickBits.all (fun w => decide (nextTick c n < 2 ^ w)) = true := by
  cases hbits : c.tickBits with
  | none => rfl
  | some w => simp [nextTick, hbits, Nat.mod_lt]

theorem zero_fits (c : Config) : c.tickBits.all (fun w => decide (0 < 2 ^ w)) = true := by
  cases c.tickBits <;> simp

/-- R18: the counter is reduced to its width at every tick, and 0 fits any width. -/
theorem exec_keeps_ticksFit {i : Instr} {s t : State} (hfit : TicksFit s) (h : exec i s = .next t) : TicksFit t := by
  cases i with
  | tmrTick => obtain ⟨_, rfl⟩ := execTmrTick_eq_next.mp h; exact nextTick_fits s.cfg s.ticks
  | tmrArm k => obtain ⟨_, _, _, rfl⟩ := execTmrArm_eq_next.mp h; exact zero_fits s.cfg
  | tmrClear => obtain ⟨_, rfl⟩ := execTmrClear_eq_next.mp h; exact zero_fits s.cfg
  | _ =>
    obtain ⟨hcfg, -⟩ := exec_keeps_port h
    obtain ⟨-, -, htimer⟩ := exec_frame h
    obtain ⟨hticks, -⟩ := htimer rfl
    rw [TicksFit, hcfg, hticks]
    exact hfit

theorem exec_keeps_invariant {i : Instr} {s t : State} (hs : Invariant s) (h : exec i s = .next t) : Invariant t := by
  obtain ⟨hvalid, hindices, hslots, hlive, hwindows, hfit⟩ := hs
  obtain ⟨hcfg, -⟩ := exec_keeps_port h
  exact ⟨hcfg ▸ hvalid, exec_keeps_indicesOk h hindices, exec_keeps_slotsOk h hslots,
    exec_keeps_liveWritten hindices hlive h, exec_keeps_windowsOpen hvalid hwindows h, exec_keeps_ticksFit hfit h⟩

/-! ### What the step finds at the port -/

theorem invariant_resetWith {c : Config} (h : c.Valid) : Invariant (State.resetWith c) := by
  obtain ⟨hcapacity, hscale, hbits⟩ := h
  refine ⟨⟨hcapacity, hscale, hbits⟩, ⟨hcapacity, hcapacity⟩, ⟨List.Pairwise.nil, nofun⟩, nofun, ?_, zero_fits c⟩
  intro f _ hset
  exact absurd ((flagSet_zero f).symm.trans hset) Bool.false_ne_true

/-- Nothing to perform: nothing was presented, an instant without requests, or a reset. The invariant speaks of nothing that
this changes but by a reset. -/
theorem fetch_idle_cases {s t : State} (h : fetch s = .idle t) :
    (s.pending = [] ∧ t = { s with out := Output.quiet }) ∨
    ∃ a rest, s.pending = a :: rest ∧
      (t = { s with pending := rest, out := Output.quiet } ∨ t = resetEvent { s with pending := rest }) := by
  unfold fetch at h
  split at h
  next hpending => cases h; exact .inl ⟨hpending, rfl⟩
  next rest hpending => cases h; exact .inr ⟨_, rest, hpending, .inr rfl⟩
  next f b t rest hpending =>
    split at h
    · cases h; exact .inr ⟨_, rest, hpending, .inl rfl⟩
    · cases h

/-- A request to perform: one of those of the oldest instant, and the others stay. -/
theorem fetch_perform_cases {s t : State} {r : Request} (h : fetch s = .perform r t) :
    ∃ a f b k rest, s.pending = .requests f b k :: rest ∧ (a, r) ∈ waiting f b k ∧
      t = { s with
        issuer := a
        pending := withdraw a f b k rest
        draws := s.draws + ((waiting f b k).length - 1) } := by
  unfold fetch at h
  split at h
  next => cases h
  next => cases h
  next f b k rest hpending =>
    split at h
    next => cases h
    next a r hserve => cases h; exact ⟨a, f, b, k, rest, hpending, serve_mem hserve, rfl⟩

theorem step_of_idle {s t : State} (h : fetch s = .idle t) : step s = .next t := by
  simp only [step, h]

/-- A performed request that decodes is the operation, in the state the port leaves. -/
theorem step_of_fetch {s t : State} {r : Request} {i : Instr} (hfetch : fetch s = .perform r t) (h : decode r = .ok i) :
    step s = exec i t :=
  (step_of_perform hfetch).trans (perform_of_ok h t)

/-! ### Operations one after the other -/

theorem issue_push_eq_next {f : Frame} {s t : State} : issue .busProducer (.rxqPush f) s = .next t ↔ f.lengthOk ∧
    ((s.full = true ∧ t = { s with issuer := .busProducer, out := { result := .accepted false, overflow := true } }) ∨
     (s.full = false ∧ s.wr < s.cfg.capacity ∧
      t = { s with
        slots := slotPut s.slots s.wr f
        wr := nextIndex s.cfg s.wr
        low := true
        issuer := .busProducer
        out := { result := .accepted true, overflow := false } })) :=
  (execRxqPush_eq_next (s := { s with issuer := .busProducer })).trans (and_iff_right rfl)

theorem runOps_cons_eq_next {a : Agent} {i : Instr} {rest : List (Agent × Instr)} {s t : State} :
    runOps ((a, i) :: rest) s = .next t ↔ ∃ u, issue a i s = .next u ∧ runOps rest u = .next t := by
  rw [runOps]
  split <;> simp [*]

/-! ### Requests of one instant -/

theorem serve_pair (d : Nat) (x y : Agent × Request) : serve d [x, y] = some x ∨ serve d [x, y] = some y := by
  rw [serve]
  split
  · exact .inl rfl
  · exact .inr rfl

theorem serve_triple (d : Nat) (x y z : Agent × Request) :
    serve d [x, y, z] = some x ∨ serve d [x, y, z] = some y ∨ serve d [x, y, z] = some z := by
  rw [serve]
  split
  · exact .inl rfl
  · exact .inr (serve_pair (d + 1) y z)

theorem step_of_serve {s : State} {f b t : Option Request} {rest : List Arrival} {a : Agent} {r : Request}
    (hpending : s.pending = .requests f b t :: rest) (h : serve s.draws (waiting f b t) = some (a, r)) :
    step s = perform r { s with
      issuer := a
      pending := withdraw a f b t rest
      draws := s.draws + ((waiting f b t).length - 1) } :=
  step_of_perform (by simp only [fetch, hpending, h])

/-- A request left of an instant is performed at the next step. -/
theorem step_of_alone {s : State} {a : Agent} {r : Request} {rest : List Arrival} {i : Instr}
    (hpending : s.pending = aloneFrom a r :: rest) (h : decode r = .ok i) :
    step s = exec i { s with issuer := a, pending := rest } :=
  step_of_fetch (fetch_alone hpending) h

/-! ### The invariant under a step -/

theorem invariant_of_fetch_idle {s t : State} (hs : Invariant s) (h : fetch s = .idle t) : Invariant t := by
  obtain ⟨-, rfl⟩ | ⟨_, _, -, rfl | rfl⟩ := fetch_idle_cases h
  · exact hs
  · exact hs
  · exact invariant_resetWith (c := s.cfg) (valid_of_invariant hs)

theorem invariant_of_fetch_perform {s t : State} {r : Request} (hs : Invariant s) (h : fetch s = .perform r t) :
    Invariant t := by
  obtain ⟨_, _, _, _, _, -, -, rfl⟩ := fetch_perform_cases h
  exact hs

/-- R13, R17, R21, R49: the invariant goes on from step to step. -/
theorem step_keeps_invariant {s t : State} (hs : Invariant s) (h : step s = .next t) : Invariant t := by
  cases hfetch : fetch s with
  | idle u =>
    cases (step_of_idle hfetch).symm.trans h
    exact invariant_of_fetch_idle hs hfetch
  | perform r u =>
    cases hdecode : decode r with
    | ok i => exact exec_keeps_invariant (invariant_of_fetch_perform hs hfetch) ((step_of_fetch hfetch hdecode).symm.trans h)
    | error e => simp only [step, hfetch, perform, hdecode, reduceCtorEq] at h

/-! ### What the environment promises of each request -/

/-- Every request of the arrival meets `P`, given who makes it. -/
def arrivalAll (P : Agent → Request → Bool) : Arrival → Bool
  | .reset => true
  | .requests f b t => f.all (P .foreground) && b.all (P .busProducer) && t.all (P .tickSource)

theorem arrivalInDomain_eq (a : Arrival) : arrivalInDomain a = arrivalAll requestInDomain a := by
  cases a <;> rfl

theorem arrivalInContract_eq (a : Arrival) : arrivalInContract a = arrivalAll requestInContract a := by
  cases a <;> rfl

theorem arrivalAll_requests {P : Agent → Request → Bool} {f b t : Option Request} :
    arrivalAll P (.requests f b t) = true ↔
      f.all (P .foreground) = true ∧ b.all (P .busProducer) = true ∧ t.all (P .tickSource) = true := by
  simp [arrivalAll, and_assoc]

theorem of_mem_waiting {P : Agent → Request → Bool} {f b t : Option Request} {a : Agent} {r : Request}
    (h : arrivalAll P (.requests f b t) = true) (hr : (a, r) ∈ waiting f b t) : P a r = true := by
  obtain ⟨hf, hb, ht⟩ := arrivalAll_requests.mp h
  simp only [waiting, List.mem_append, Option.mem_toList, Option.map_eq_some_iff, Prod.mk.injEq] at hr
  obtain (⟨x, rfl, rfl, rfl⟩ | ⟨x, rfl, rfl, rfl⟩) | ⟨x, rfl, rfl, rfl⟩ := hr
  · exact hf
  · exact hb
  · exact ht

theorem arrivalAll_of_mem_withdraw {P : Agent → Request → Bool} {f b t : Option Request} {rest : List Arrival} {a : Agent}
    (h : arrivalAll P (.requests f b t) = true) (hrest : ∀ x ∈ rest, arrivalAll P x = true) :
    ∀ x ∈ withdraw a f b t rest, arrivalAll P x = true := by
  obtain ⟨hf, hb, ht⟩ := arrivalAll_requests.mp h
  unfold withdraw
  split
  case h_1 | h_3 | h_5 => exact hrest
  case h_2 => exact List.forall_mem_cons.mpr ⟨arrivalAll_requests.mpr ⟨rfl, hb, ht⟩, hrest⟩
  case h_4 => exact List.forall_mem_cons.mpr ⟨arrivalAll_requests.mpr ⟨hf, rfl, ht⟩, hrest⟩
  case h_6 => exact List.forall_mem_cons.mpr ⟨arrivalAll_requests.mpr ⟨hf, hb, rfl⟩, hrest⟩

/-- What every request presented meets, the one fetched meets, and so do those left. -/
theorem fetch_perform_keeps {P : Agent → Request → Bool} {s t : State} {r : Request}
    (hP : ∀ x ∈ s.pending, arrivalAll P x = true) (h : fetch s = .perform r t) :
    P t.issuer r = true ∧ ∀ x ∈ t.pending, arrivalAll P x = true := by
  obtain ⟨a, f, b, k, rest, hpending, hmem, rfl⟩ := fetch_perform_cases h
  rw [hpending, List.forall_mem_cons] at hP
  obtain ⟨hhead, hrest⟩ := hP
  exact ⟨of_mem_waiting hhead hmem, arrivalAll_of_mem_withdraw hhead hrest⟩

theorem fetch_idle_keeps {P : Agent → Request → Bool} {s t : State}
    (hP : ∀ x ∈ s.pending, arrivalAll P x = true) (h : fetch s = .idle t) : ∀ x ∈ t.pending, arrivalAll P x = true := by
  obtain ⟨-, rfl⟩ | ⟨a, rest, hpending, rfl | rfl⟩ := fetch_idle_cases h
  · exact hP
  all_goals
    rw [hpending, List.forall_mem_cons] at hP
    exact hP.2

/-- What every request presented meets goes on from step to step. -/
theorem step_keeps_arrivalAll {P : Agent → Request → Bool} {s t : State} (hP : ∀ x ∈ s.pending, arrivalAll P x = true)
    (h : step s = .next t) : ∀ x ∈ t.pending, arrivalAll P x = true := by
  cases hfetch : fetch s with
  | idle u =>
    cases (step_of_idle hfetch).symm.trans h
    exact fetch_idle_keeps hP hfetch
  | perform r u =>
    obtain ⟨-, hrest⟩ := fetch_perform_keeps hP hfetch
    cases hdecode : decode r with
    | ok i =>
      obtain ⟨-, -, hpending⟩ := exec_keeps_port ((step_of_fetch hfetch hdecode).symm.trans h)
      rwa [hpending]
    | error e => simp only [step, hfetch, perform, hdecode, reduceCtorEq] at h

theorem domainKept_iff {s : State} : DomainKept s ↔ ∀ x ∈ s.pending, arrivalAll requestInDomain x = true := by
  simp only [DomainKept, arrivalInDomain_eq]

theorem contractKept_iff {s : State} : ContractKept s ↔ ∀ x ∈ s.pending, arrivalAll requestInContract x = true := by
  simp only [ContractKept, arrivalInContract_eq]

theorem requestInDomain_iff {a : Agent} {r : Request} : requestInDomain a r = true ↔
    ∃ i, decode r = .ok i ∧ contextAllowed (agentContext a) i = true ∧ i.wellFormed = true := by
  unfold requestInDomain
  cases decode r <;> simp

/-- Requests of an agent that may not issue any operation of a kind ask for none. -/
theorem any_asksFor_of_contract {a : Agent} {kind : Instr → Bool} (hkind : ∀ i, agentMayIssue a i = true → kind i = false)
    {o : Option Request} (h : o.all (requestInContract a) = true) : o.any (asksFor kind) = false := by
  cases o with
  | none => rfl
  | some r =>
    simp only [Option.all_some, requestInContract] at h
    simp only [Option.any_some, asksFor]
    cases hdecode : decode r with
    | error e => rfl
    | ok i =>
      simp only [hdecode, Bool.and_eq_true] at h
      exact hkind i h.1

theorem countRequests_requests (kind : Instr → Bool) (f b t : Option Request) : countRequests kind (.requests f b t) =
    (f.any (asksFor kind)).toNat + (b.any (asksFor kind)).toNat + (t.any (asksFor kind)).toNat := by
  have hcount : ∀ o : Option Request, o.toList.countP (asksFor kind) = (o.any (asksFor kind)).toNat := by
    intro o
    cases o with
    | none => rfl
    | some r => rw [Option.toList_some, List.countP_singleton, Option.any_some]; cases asksFor kind r <;> rfl
  have happend : [f, b, t].filterMap id = f.toList ++ b.toList ++ t.toList := by
    cases f <;> cases b <;> cases t <;> rfl
  rw [countRequests, happend, List.countP_append, List.countP_append, hcount, hcount, hcount]

/-- R102: only the bus producer may push. -/
theorem no_push_from {a : Agent} (ha : a ≠ .busProducer) (i : Instr) (h : agentMayIssue a i = true) : isPush i = false := by
  cases i with
  | rxqPush f =>
    cases a with
    | busProducer => exact absurd rfl ha
    | foreground | tickSource => cases h
  | _ => rfl

/-- R102: only the foreground may take frames out. -/
theorem no_consume_from {a : Agent} (ha : a ≠ .foreground) (i : Instr) (h : agentMayIssue a i = true) :
    isConsume i = false := by
  cases i with
  | rxqPop | rxqClear =>
    cases a with
    | foreground => exact absurd rfl ha
    | busProducer | tickSource => cases h
  | _ => rfl

theorem countRequests_isPush {f b t : Option Request} (h : arrivalInContract (.requests f b t) = true) :
    countRequests isPush (.requests f b t) = (b.any (asksFor isPush)).toNat := by
  rw [arrivalInContract_eq, arrivalAll_requests] at h
  obtain ⟨hf, -, ht⟩ := h
  rw [countRequests_requests, any_asksFor_of_contract (no_push_from (by decide)) hf,
    any_asksFor_of_contract (no_push_from (by decide)) ht]
  exact Nat.zero_add _

theorem countRequests_isConsume {f b t : Option Request} (h : arrivalInContract (.requests f b t) = true) :
    countRequests isConsume (.requests f b t) = (f.any (asksFor isConsume)).toNat := by
  rw [arrivalInContract_eq, arrivalAll_requests] at h
  obtain ⟨-, hb, ht⟩ := h
  rw [countRequests_requests, any_asksFor_of_contract (no_consume_from (by decide)) hb,
    any_asksFor_of_contract (no_consume_from (by decide)) ht]
  rfl

theorem arrivalInContract_requests_none {f b t : Option Request} (h : arrivalInContract (.requests f b t) = true) :
    arrivalInContract (.requests f none t) = true ∧ arrivalInContract (.requests none b t) = true := by
  simp only [arrivalInContract_eq, arrivalAll_requests] at h ⊢
  obtain ⟨hf, hb, ht⟩ := h
  exact ⟨⟨hf, rfl, ht⟩, ⟨rfl, hb, ht⟩⟩

theorem all_inDomain_of_contract {a : Agent} {o : Option Request} (h : o.all (requestInContract a) = true) :
    o.all (requestInDomain a) = true := by
  cases o with
  | none => rfl
  | some r => exact requestInDomain_of_contract h

theorem arrivalInDomain_of_contract {a : Arrival} (h : arrivalInContract a = true) : arrivalInDomain a = true := by
  cases a with
  | reset => rfl
  | requests f b t =>
    rw [arrivalInContract_eq, arrivalAll_requests] at h
    rw [arrivalInDomain_eq, arrivalAll_requests]
    obtain ⟨hf, hb, ht⟩ := h
    exact ⟨all_inDomain_of_contract hf, all_inDomain_of_contract hb, all_inDomain_of_contract ht⟩

/-- R168: a push and a tick write different units, so either order of the two ends in the block that the tick first leads to. -/
theorem push_beside_tick {s u : State} {bus tick : Request} {rest : List Arrival} {g : Frame}
    (hpending : s.pending = .requests none (some bus) (some tick) :: rest) (hbus : decode bus = .ok (.rxqPush g))
    (htick : decode tick = .ok .tmrTick) (h : runOps [(.tickSource, .tmrTick), (.busProducer, .rxqPush g)] s = .next u) :
    ∃ v w, step s = .next v ∧ step v = .next w ∧ w.pending = rest ∧ sameCrc u w ∧ sameQueue u w ∧ sameTimer u w := by
  obtain ⟨x, htimer, hpush⟩ := runOps_cons_eq_next.mp h
  obtain ⟨u', hpush, hdone⟩ := runOps_cons_eq_next.mp hpush
  cases (issue_tick s).symm.trans htimer
  cases hdone
  rcases serve_pair s.draws (Agent.busProducer, bus) (Agent.tickSource, tick) with hfirst | hfirst
  · have hstep := (step_of_serve hpending hfirst).trans (perform_of_ok hbus _)
    obtain ⟨hg, ⟨hfull, rfl⟩ | ⟨hfull, hwr, rfl⟩⟩ := issue_push_eq_next.mp hpush
    · exact ⟨_, _, hstep.trans (execRxqPush_eq_next.mpr ⟨rfl, hg, .inl ⟨hfull, rfl⟩⟩),
        (step_of_alone (a := .tickSource) rfl htick).trans (execTmrTick_eq_next.mpr ⟨rfl, rfl⟩), rfl, rfl,
        ⟨rfl, rfl, rfl, rfl⟩, ⟨rfl, rfl⟩⟩
    · exact ⟨_, _, hstep.trans (execRxqPush_eq_next.mpr ⟨rfl, hg, .inr ⟨hfull, hwr, rfl⟩⟩),
        (step_of_alone (a := .tickSource) rfl htick).trans (execTmrTick_eq_next.mpr ⟨rfl, rfl⟩), rfl, rfl,
        ⟨rfl, rfl, rfl, rfl⟩, ⟨rfl, rfl⟩⟩
  · have hstep := (step_of_serve hpending hfirst).trans
      ((perform_of_ok htick _).trans (execTmrTick_eq_next.mpr ⟨rfl, rfl⟩))
    obtain ⟨hg, ⟨hfull, rfl⟩ | ⟨hfull, hwr, rfl⟩⟩ := issue_push_eq_next.mp hpush
    · exact ⟨_, _, hstep,
        (step_of_alone (a := .busProducer) rfl hbus).trans (execRxqPush_eq_next.mpr ⟨rfl, hg, .inl ⟨hfull, rfl⟩⟩), rfl, rfl,
        ⟨rfl, rfl, rfl, rfl⟩, ⟨rfl, rfl⟩⟩
    · exact ⟨_, _, hstep,
        (step_of_alone (a := .busProducer) rfl hbus).trans (execRxqPush_eq_next.mpr ⟨rfl, hg, .inr ⟨hfull, hwr, rfl⟩⟩), rfl,
        rfl, ⟨rfl, rfl, rfl, rfl⟩, ⟨rfl, rfl⟩⟩

/-- R39, R160: inside the domain every step completes. -/
theorem step_completes {s : State} (hs : Invariant s) (hdomain : DomainKept s) : ∃ t, step s = .next t := by
  cases hfetch : fetch s with
  | idle u => exact ⟨u, step_of_idle hfetch⟩
  | perform r u =>
    obtain ⟨hrequest, -⟩ := fetch_perform_keeps (domainKept_iff.mp hdomain) hfetch
    obtain ⟨i, hdecode, hallowed, hwellFormed⟩ := requestInDomain_iff.mp hrequest
    have hindices : IndicesOk u := indicesOk_of_invariant (invariant_of_fetch_perform hs hfetch)
    rw [step_of_fetch hfetch hdecode]
    exact exec_completes hindices hallowed hwellFormed

/-! ### The statements -/

/-- Settles O46: a fetch leaves what the invariant speaks of, or resets it, and every operation keeps the invariant. -/
theorem everyStepKeepsTheInvariant : Obligations.EveryStepKeepsTheInvariant := fun _ _ => step_keeps_invariant

/-- Settles O48: the operation fetched is inside the domain and so completes; what is promised of every request presented
holds of those left. -/
theorem everyStepCompletesUnderTheContract : Obligations.EveryStepCompletesUnderTheContract := by
  intro s hs hdomain
  obtain ⟨t, ht⟩ := step_completes hs hdomain
  exact ⟨t, ht, step_keeps_invariant hs ht, domainKept_iff.mpr (step_keeps_arrivalAll (domainKept_iff.mp hdomain) ht),
    fun hcontract => contractKept_iff.mpr (step_keeps_arrivalAll (contractKept_iff.mp hcontract) ht)⟩

/-- Settles O43: the checks in their order, and that nothing else is refused. -/
theorem refusedExactlyOutsideTheDomain : Obligations.RefusedExactlyOutsideTheDomain := by
  intro i s
  refine ⟨exec_wrongContext, fun hallowed => ⟨?flag, ?length, ?domain⟩⟩
  case flag =>
    rintro k (rfl | rfl) hk
    · exact exec_tmrArm_noSuchFlag hallowed hk
    · exact exec_tmrTest_noSuchFlag hallowed hk
  case length =>
    rintro f rfl hf
    exact exec_rxqPush_badLength hallowed hf
  case domain =>
    intro hwellFormed r
    obtain ⟨t, h⟩ | ⟨-, k, h⟩ := exec_completes_or_faults hallowed hwellFormed <;> rw [h] <;> exact nofun

/-- Settles O44: the port's frame and the units' frames, per writer. -/
theorem unitsShareNoState : Obligations.UnitsShareNoState := by
  intro i s t h
  obtain ⟨hcrc, hqueue, htimer⟩ := exec_frame h
  refine ⟨exec_keeps_port h, ?_⟩
  cases i with
  | crcInit | crcUpdate => exact ⟨hqueue rfl, htimer rfl⟩
  | crcRead | idEncode | idDecode | tmrTest => exact ⟨hcrc rfl, hqueue rfl, htimer rfl⟩
  | rxqPush | rxqPop | rxqClear => exact ⟨hcrc rfl, htimer rfl⟩
  | tmrTick | tmrArm | tmrClear => exact ⟨hcrc rfl, hqueue rfl⟩

/-- Settles O45: the empty queue, no flag set and the counter at 0 meet every clause. -/
theorem invariantHoldsAfterReset : Obligations.InvariantHoldsAfterReset :=
  ⟨invariant_resetWith (by decide), fun _ => invariant_resetWith⟩

/-- Settles O47: the only fault is an index out of range, and the invariant keeps both in range. -/
theorem noStepFaults : Obligations.NoStepFaults := by
  intro s r hs
  cases hfetch : fetch s with
  | idle u => rw [step_of_idle hfetch]; exact nofun
  | perform req u =>
    have hindices : IndicesOk u := indicesOk_of_invariant (invariant_of_fetch_perform hs hfetch)
    cases hdecode : decode req with
    | ok i => rw [step_of_fetch hfetch hdecode]; exact exec_ne_fault hindices r
    | error e => simp only [step, hfetch, perform, hdecode]; exact nofun

/-- Settles O50: the reset state's fields as they are defined. -/
theorem resetClearsQueueAndTimer : Obligations.ResetClearsQueueAndTimer :=
  ⟨rfl, rfl, rfl, rfl, rfl, rfl, rfl, rfl⟩

/-- Settles O51: the fetch of a reset is the reset event, in the state without that arrival. -/
theorem resetEventClearsTheBlock : Obligations.ResetEventClearsTheBlock := by
  intro s rest hpending
  have hfetch : fetch s = .idle (resetEvent { s with pending := rest }) := by simp only [fetch, hpending]
  exact ⟨_, step_of_idle hfetch⟩

/-- Settles O52: the fetch finds nothing. -/
theorem idleStepChangesNothing : Obligations.IdleStepChangesNothing := by
  intro s hpending
  exact step_of_idle (by simp only [fetch, hpending]; rfl)

/-- Settles O53: the fetch of a request that stands alone, then the step of any fetched request. -/
theorem stepRunsTheDecodedOperation : Obligations.StepRunsTheDecodedOperation :=
  ⟨fun _ _ _ _ _ hpending => step_of_fetch (fetch_alone hpending), fun _ _ _ _ => step_of_fetch⟩

/-- Settles O54: whichever of the requests the free value serves, the fetch leaves the others. -/
theorem simultaneousRequestsServedOneByOne : Obligations.SimultaneousRequestsServedOneByOne := by
  refine ⟨fun s p q rest => ⟨fun h => ?_, fun h => ?_, fun h => ?_⟩, fun s p q r rest h => ?_⟩
  · exact (serve_pair s.draws (.foreground, p) (.busProducer, q)).imp (step_of_serve h) (step_of_serve h)
  · exact (serve_pair s.draws (.foreground, p) (.tickSource, q)).imp (step_of_serve h) (step_of_serve h)
  · exact (serve_pair s.draws (.busProducer, p) (.tickSource, q)).imp (step_of_serve h) (step_of_serve h)
  · exact (serve_triple s.draws (.foreground, p) (.busProducer, q) (.tickSource, r)).imp (step_of_serve h)
      (Or.imp (step_of_serve h) (step_of_serve h))

/-- Settles O49: each agent's duty bounds the counts, and a push and a tick write different units. -/
theorem oneProducerOneConsumer : Obligations.OneProducerOneConsumer := by
  refine ⟨fun a h => ⟨arrivalInDomain_of_contract h, ?pushes, ?consumes⟩, fun f b t h => ?_,
    fun s u bus tick rest g _ hpending hbus htick _ => push_beside_tick hpending hbus htick⟩
  case pushes =>
    cases a with
    | reset => exact Nat.zero_le 1
    | requests f b t => exact (countRequests_isPush h).trans_le (Bool.toNat_le _)
  case consumes =>
    cases a with
    | reset => exact Nat.zero_le 1
    | requests f b t => exact (countRequests_isConsume h).trans_le (Bool.toNat_le _)
  · obtain ⟨hwithoutBus, hwithoutForeground⟩ := arrivalInContract_requests_none h
    exact ⟨countRequests_isPush hwithoutBus, countRequests_isConsume hwithoutForeground⟩

end Sys2Proof.Proofs
end

section
/-! SUPPORT. The CRC step as a linear map of 16-bit words (R71, R74): the shifts are additive and injective, a word whose top bits
are 0 is only moved, and so a step is the byte-table form of law 3. -/

namespace Sys2Proof.Proofs

open Sys2Proof Sys2Proof.Machine Sys2Proof.Safety

/-! ### Shifts -/

theorem crcShifts_eq_iterate (n : Nat) (c : BitVec 16) : crcShifts n c = crcShift^[n] c := by
  induction n generalizing c with
  | zero => rfl
  | succ n ih => rw [crcShifts, ih, Function.iterate_succ_apply]

theorem crcShifts_xor (n : Nat) (c d : BitVec 16) : crcShifts n (c ^^^ d) = crcShifts n c ^^^ crcShifts n d := by
  induction n generalizing c d with
  | zero => rfl
  | succ n ih => rw [crcShifts, crcShift_xor, ih]; rfl

/-- The polynomial's bit 0 is 1: a shift that XORs it in never answers 0, and one that does not loses no bit. -/
theorem crcShift_eq_zero {c : BitVec 16} (h : crcShift c = 0#16) : c = 0#16 := by
  have hlow := congrArg (·.getLsbD 0) h
  rw [crcShift_eq_msb] at h
  cases hmsb : c.msb with
  | true => simp [crcShift_eq_msb, hmsb] at hlow
  | false =>
    simp only [hmsb, Bool.false_eq_true, if_false] at h
    refine BitVec.eq_of_getLsbD_eq fun i hi => ?_
    rw [BitVec.getLsbD_zero]
    rcases Nat.lt_or_ge (i + 1) 16 with hlt | hge
    · have hbit := congrArg (·.getLsbD (i + 1)) h
      rwa [BitVec.getLsbD_shiftLeft, BitVec.getLsbD_zero, decide_eq_true hlt, Nat.add_sub_cancel] at hbit
    · obtain rfl : i = 15 := by omega
      exact (BitVec.msb_eq_getLsbD_last c).symm.trans hmsb

theorem crcShift_injective : Function.Injective crcShift := fun c d h => by
  have hzero : crcShift (c ^^^ d) = 0#16 := by rw [crcShift_xor, h, BitVec.xor_self]
  exact BitVec.xor_eq_zero_iff.mp (crcShift_eq_zero hzero)

theorem crcShifts_injective (n : Nat) : Function.Injective (crcShifts n) := by
  rw [funext (crcShifts_eq_iterate n)]
  exact crcShift_injective.iterate n

theorem crcShifts_zero (n : Nat) : crcShifts n 0#16 = 0#16 := by
  induction n with
  | zero => rfl
  | succ n ih => exact ih

/-- A word whose top `n` bits are 0 meets no polynomial in `n` shifts. -/
theorem crcShifts_of_lt {n : Nat} {c : BitVec 16} (h : c.toNat * 2 ^ n < 2 ^ 16) : crcShifts n c = c <<< n := by
  induction n generalizing c with
  | zero => exact (BitVec.shiftLeft_zero c).symm
  | succ n ih =>
    rw [Nat.pow_succ', ← Nat.mul_assoc] at h
    have htop : c.toNat * 2 < 2 ^ 16 := Nat.lt_of_le_of_lt (Nat.le_mul_of_pos_right _ n.two_pow_pos) h
    have hmsb : c.msb = false := by rw [BitVec.msb_eq_false_iff_two_mul_lt, Nat.mul_comm]; exact htop
    have hshift : (c <<< 1).toNat = c.toNat * 2 := by
      rw [BitVec.toNat_shiftLeft, Nat.shiftLeft_eq, Nat.pow_one, Nat.mod_eq_of_lt htop]
    rw [crcShifts, crcShift_eq_msb, hmsb, if_neg Bool.false_ne_true, ih (hshift.symm ▸ h), ← BitVec.shiftLeft_add,
      Nat.add_comm]

/-! ### Steps -/

theorem setWidth_shiftLeft_eq_append_zero (b : Byte) : b.setWidth 16 <<< 8 = b ++ 0#8 := by
  refine BitVec.eq_of_getLsbD_eq fun i hi => ?_
  rw [BitVec.getLsbD_shiftLeft, BitVec.getLsbD_append, BitVec.getLsbD_zero, BitVec.getLsbD_setWidth]
  by_cases h : i < 8
  · simp [h]
  · simp [h, hi, show i - 8 < 16 by omega]

theorem crcStep_eq_append (c : BitVec 16) (b : Byte) : crcStep c b = crcShifts 8 (c ^^^ (b ++ 0#8)) := by
  rw [crcStep, setWidth_shiftLeft_eq_append_zero]

theorem xor_append_zero (a b : Byte) : (a ^^^ b) ++ 0#8 = (a ++ 0#8) ^^^ (b ++ 0#8) := by
  rw [BitVec.xor_append, BitVec.xor_self]

theorem crcStep_xor (c d : BitVec 16) (a b : Byte) : crcStep (c ^^^ d) (a ^^^ b) = crcStep c a ^^^ crcStep d b := by
  rw [crcStep_eq_append, crcStep_eq_append, crcStep_eq_append, ← crcShifts_xor, xor_append_zero]
  congr 1
  ac_rfl

theorem crcStep_zero : crcStep 0#16 0#8 = 0#16 := crcShifts_zero 8

theorem highByte_xor_lowByte (c : BitVec 16) :
    (c.extractLsb' 8 8 ++ 0#8) ^^^ (c.extractLsb' 0 8).setWidth 16 = c := by
  refine BitVec.eq_of_getLsbD_eq fun i hi => ?_
  rw [BitVec.getLsbD_xor, BitVec.getLsbD_append, BitVec.getLsbD_setWidth, BitVec.getLsbD_extractLsb',
    BitVec.getLsbD_extractLsb', BitVec.getLsbD_zero, Nat.zero_add]
  by_cases h : i < 8
  · simp [h, hi]
  · simp [h, show i - 8 < 8 by omega, show 8 + (i - 8) = i by omega]

theorem lowByte_shiftLeft (c : BitVec 16) : (c.extractLsb' 0 8).setWidth 16 <<< 8 = c <<< 8 := by
  refine BitVec.eq_of_getLsbD_eq fun i hi => ?_
  rw [BitVec.getLsbD_shiftLeft, BitVec.getLsbD_shiftLeft, BitVec.getLsbD_setWidth, BitVec.getLsbD_extractLsb', Nat.zero_add]
  simp [show i - 8 < 8 by omega, show i - 8 < 16 by omega]

/-- R74 law 3: the low byte is only moved up, and the polynomial meets the high byte XOR the message's. -/
theorem crcStep_eq_byteTable (c : BitVec 16) (b : Byte) :
    crcStep c b = (c <<< 8) ^^^ crcStep 0#16 (c.extractLsb' 8 8 ^^^ b) := by
  have hlow : crcShifts 8 ((c.extractLsb' 0 8).setWidth 16) = c <<< 8 := by
    have hbound : ((c.extractLsb' 0 8).setWidth 16).toNat < 2 ^ 8 :=
      Nat.lt_of_le_of_lt (by rw [BitVec.toNat_setWidth]; exact Nat.mod_le _ _) (c.extractLsb' 0 8).isLt
    rw [crcShifts_of_lt (by omega), lowByte_shiftLeft]
  calc crcStep c b
      = crcShifts 8 ((c.extractLsb' 0 8).setWidth 16 ^^^ ((c.extractLsb' 8 8 ++ 0#8) ^^^ (b ++ 0#8))) := by
        rw [← BitVec.xor_assoc, BitVec.xor_comm (BitVec.setWidth 16 _), highByte_xor_lowByte, crcStep_eq_append]
    _ = (c <<< 8) ^^^ crcStep 0#16 (c.extractLsb' 8 8 ^^^ b) := by
        rw [crcShifts_xor, hlow, crcStep_eq_append, BitVec.zero_xor, xor_append_zero]

theorem crcStep_injective_left (b : Byte) : Function.Injective (crcStep · b) := fun c d h => by
  simp only [crcStep_eq_append] at h
  exact (BitVec.xor_left_inj _).mp (crcShifts_injective 8 h)

theorem crcStep_injective_right (c : BitVec 16) : Function.Injective (crcStep c) := fun a b h => by
  rw [crcStep_eq_append, crcStep_eq_append] at h
  exact (BitVec.append_left_inj _).mp ((BitVec.xor_right_inj (w := 16) c).mp (crcShifts_injective 8 h))

/-! ### Messages -/

theorem crcFold_injective (bytes : List Byte) : Function.Injective (bytes.foldl crcStep) := by
  induction bytes with
  | nil => exact Function.injective_id
  | cons b bytes ih => exact ih.comp (crcStep_injective_left b)

/-- Two steps by the accumulator's own bytes, high byte first, cancel both (R74 law 7). -/
theorem crcStep_own_bytes (c : BitVec 16) : (bytes16 c).foldl crcStep c = 0#16 := by
  have hhigh : crcStep c (c.extractLsb' 8 8) = c <<< 8 := by
    rw [crcStep_eq_byteTable, BitVec.xor_self, crcStep_zero, BitVec.xor_zero]
  have hlow : (c <<< 8).extractLsb' 8 8 = c.extractLsb' 0 8 := by
    refine BitVec.eq_of_getLsbD_eq fun i hi => ?_
    rw [BitVec.getLsbD_extractLsb', BitVec.getLsbD_shiftLeft, BitVec.getLsbD_extractLsb', Nat.add_sub_cancel_left,
      Nat.zero_add]
    simp [show 8 + i < 16 by omega]
  have hgone : c <<< 8 <<< 8 = 0#16 := by
    rw [← BitVec.shiftLeft_add]
    exact BitVec.shiftLeft_eq_zero le_rfl
  rw [bytes16, List.foldl_cons, List.foldl_cons, List.foldl_nil, hhigh, crcStep_eq_byteTable, hlow, BitVec.xor_self,
    crcStep_zero, hgone, BitVec.xor_self]

theorem crc16_append (before after : List Byte) : crc16 (before ++ after) = after.foldl crcStep (crc16 before) :=
  List.foldl_append

/-! ### The statements -/

/-- Settles O6: CRC.INIT by its inversion lemma. -/
theorem crcInitSeeds : Obligations.CrcInitSeeds := fun _ hforeground => execCrcInit_eq_next.mpr ⟨hforeground, rfl⟩

/-- Settles O7: the update by its inversion lemma; its step is eight shifts in the form that bit 15 decides. -/
theorem crcUpdateFoldsByte : Obligations.CrcUpdateFoldsByte := by
  intro byte s hforeground
  rw [← funext crcShift_eq_msb, ← crcShifts_eq_iterate, ← crcStep_eq_append]
  exact execCrcUpdate_eq_next.mpr ⟨hforeground, rfl⟩

/-- Settles O8: CRC.READ by its inversion lemma. -/
theorem crcReadAnswersRegister : Obligations.CrcReadAnswersRegister := fun _ hforeground =>
  execCrcRead_eq_next.mpr ⟨hforeground, rfl⟩

/-- Settles O10: the XOR passes through each shift. -/
theorem crcStepLinear : Obligations.CrcStepLinear := crcStep_xor

/-- Settles O11: the low byte meets no polynomial in eight shifts. -/
theorem crcStepByteTable : Obligations.CrcStepByteTable := crcStep_eq_byteTable

/-- Settles O12: a step is injective on a finite set. -/
theorem crcStepBijectiveInState : Obligations.CrcStepBijectiveInState := fun b =>
  haveI : Finite (BitVec 16) := Finite.of_equiv _ BitVec.equivFin.symm.toEquiv
  Finite.injective_iff_bijective.mp (crcStep_injective_left b)

/-- Settles O13: the byte XORed in is found again from the shifts' answer. -/
theorem crcStepInjectiveInByte : Obligations.CrcStepInjectiveInByte := crcStep_injective_right

/-- Settles O14: the changed byte leaves another accumulator, and the bytes behind it keep the two apart. -/
theorem crcDetectsOneChangedByte : Obligations.CrcDetectsOneChangedByte := by
  intro before after a b hne heq
  rw [crc16_append, crc16_append] at heq
  exact hne (crcStep_injective_right (crc16 before) (crcFold_injective after heq))

/-- Settles O15: the last two steps are by the accumulator's own bytes. -/
theorem crcResidueIsZero : Obligations.CrcResidueIsZero := fun bytes =>
  (crc16_append bytes _).trans (crcStep_own_bytes (crc16 bytes))

end Sys2Proof.Proofs
end

section
/-! SUPPORT. The CRC as a polynomial remainder over GF(2) (R74 law 2): a shift multiplies by `x` modulo the generator, and so
a step, and a message byte by byte. -/

namespace Sys2Proof.Proofs

open Sys2Proof Sys2Proof.Machine Sys2Proof.Safety
open Polynomial

/-- The polynomial whose coefficient of `x^i` is bit `i`. -/
noncomputable def bitPoly {n : Nat} (v : BitVec n) : (ZMod 2)[X] :=
  ∑ i ∈ Finset.range n, if v.getLsbD i then X ^ i else 0

/-- The generator `x^16 + x^12 + x^5 + 1` (R5). -/
noncomputable def crcGenerator : (ZMod 2)[X] := X ^ 16 + X ^ 12 + X ^ 5 + 1

/-! ### Words as polynomials -/

theorem bitPoly_xor {n : Nat} (v w : BitVec n) : bitPoly (v ^^^ w) = bitPoly v + bitPoly w := by
  rw [bitPoly, bitPoly, bitPoly, ← Finset.sum_add_distrib]
  refine Finset.sum_congr rfl fun i _ => ?_
  rw [BitVec.getLsbD_xor]
  cases v.getLsbD i <;> cases w.getLsbD i <;> simp [CharTwo.add_self_eq_zero]

theorem bitPoly_append_zero (b : Byte) : bitPoly (b ++ 0#8) = bitPoly b * X ^ 8 := by
  have hlow : ∀ i ∈ Finset.range 8, (if (b ++ 0#8).getLsbD i then (X : (ZMod 2)[X]) ^ i else 0) = 0 := by
    intro i hi
    rw [BitVec.getLsbD_append, if_pos (Finset.mem_range.mp hi), BitVec.getLsbD_zero, if_neg Bool.false_ne_true]
  have hhigh : ∀ i ∈ Finset.range 8, (if (b ++ 0#8).getLsbD (8 + i) then (X : (ZMod 2)[X]) ^ (8 + i) else 0) =
      (if b.getLsbD i then X ^ i else 0) * X ^ 8 := by
    intro i _
    rw [BitVec.getLsbD_append, if_neg (Nat.not_lt.mpr (Nat.le_add_right 8 i)), Nat.add_sub_cancel_left, ite_mul,
      zero_mul, ← pow_add, Nat.add_comm]
  rw [bitPoly, Finset.sum_range_add, Finset.sum_eq_zero hlow, Finset.sum_congr rfl hhigh, zero_add, ← Finset.sum_mul,
    bitPoly]

theorem degree_bitPoly_lt {n : Nat} (v : BitVec n) : (bitPoly v).degree < n := by
  rw [← mem_degreeLT]
  refine Submodule.sum_mem _ fun i hi => ?_
  split
  · rw [mem_degreeLT, degree_X_pow]
    exact_mod_cast Finset.mem_range.mp hi
  · exact Submodule.zero_mem _

/-- Moving the bits up multiplies by `x`; the bit moved out would be the coefficient of `x^16`. -/
theorem bitPoly_shiftLeft_one (c : BitVec 16) : bitPoly (c <<< 1) + (if c.msb then X ^ 16 else 0) = bitPoly c * X := by
  have hbit : ∀ i ∈ Finset.range 15, (if (c <<< 1).getLsbD (i + 1) then (X : (ZMod 2)[X]) ^ (i + 1) else 0) =
      (if c.getLsbD i then X ^ i else 0) * X := by
    intro i hi
    have hi' := Finset.mem_range.mp hi
    rw [BitVec.getLsbD_shiftLeft, decide_eq_true (by omega), decide_eq_false (by omega), Nat.add_sub_cancel, ite_mul,
      zero_mul, ← pow_succ]
    rfl
  have hzero : (c <<< 1).getLsbD 0 = false := by rw [BitVec.getLsbD_shiftLeft]; rfl
  have htop : (if c.msb then (X : (ZMod 2)[X]) ^ 16 else 0) = (if c.getLsbD 15 then X ^ 15 else 0) * X := by
    rw [BitVec.msb_eq_getLsbD_last, ite_mul, zero_mul, ← pow_succ]
  rw [bitPoly, Finset.sum_range_succ', Finset.sum_congr rfl hbit, hzero, if_neg Bool.false_ne_true, add_zero, htop, bitPoly,
    Finset.sum_range_succ _ 15, ← Finset.sum_mul, add_mul]

theorem bitPoly_crcPoly : bitPoly 0x1021#16 = X ^ 12 + X ^ 5 + 1 := by
  have hbits : bitPoly 0x1021#16 = 1 + X ^ 5 + X ^ 12 := by simp [bitPoly, Finset.sum_range_succ]
  rw [hbits]
  ring

/-! ### Remainders -/

theorem crcGenerator_monic : crcGenerator.Monic := by
  unfold crcGenerator
  monicity!

theorem degree_crcGenerator : crcGenerator.degree = 16 := by
  unfold crcGenerator
  compute_degree!

/-- A 16-bit word is the remainder of whatever it differs from by a multiple of the generator. -/
theorem eq_modByMonic_of_dvd {p : (ZMod 2)[X]} {c : BitVec 16} (h : crcGenerator ∣ p - bitPoly c) :
    bitPoly c = p %ₘ crcGenerator := by
  have hself : bitPoly c %ₘ crcGenerator = bitPoly c :=
    (modByMonic_eq_self_iff crcGenerator_monic).mpr (by rw [degree_crcGenerator]; exact degree_bitPoly_lt c)
  rw [modByMonic_eq_of_dvd_sub crcGenerator_monic h, hself]

theorem dvd_bitPoly_crcShift (c : BitVec 16) : crcGenerator ∣ bitPoly c * X - bitPoly (crcShift c) := by
  rw [← bitPoly_shiftLeft_one, crcShift_eq_msb]
  cases c.msb with
  | false => simp
  | true =>
    have hdiff : bitPoly (c <<< 1) + X ^ 16 - bitPoly ((c <<< 1) ^^^ 0x1021#16) = crcGenerator := by
      rw [bitPoly_xor, bitPoly_crcPoly, add_sub_add_left_eq_sub, CharTwo.sub_eq_add, crcGenerator]
      ring
    exact hdiff.symm.dvd

theorem dvd_bitPoly_crcShifts (n : Nat) (c : BitVec 16) : crcGenerator ∣ bitPoly c * X ^ n - bitPoly (crcShifts n c) := by
  induction n generalizing c with
  | zero => simp [crcShifts]
  | succ n ih =>
    have hsum := ((dvd_bitPoly_crcShift c).mul_right (X ^ n)).add (ih (crcShift c))
    rw [crcShifts]
    convert hsum using 1
    ring

/-- R74 law 2 for one step. -/
theorem dvd_bitPoly_crcStep (c : BitVec 16) (b : Byte) :
    crcGenerator ∣ (bitPoly c + bitPoly b * X ^ 8) * X ^ 8 - bitPoly (crcStep c b) := by
  rw [crcStep_eq_append, ← bitPoly_append_zero, ← bitPoly_xor]
  exact dvd_bitPoly_crcShifts 8 _

/-- A message read as one number, its first byte on top. -/
noncomputable def messagePoly (bytes : List Byte) : (ZMod 2)[X] :=
  bytes.foldl (fun m b => m * X ^ 8 + bitPoly b) 0

theorem messagePoly_append_singleton (bytes : List Byte) (b : Byte) :
    messagePoly (bytes ++ [b]) = messagePoly bytes * X ^ 8 + bitPoly b :=
  List.foldl_concat ..

/-- R74 law 2 for a message, byte by byte. -/
theorem dvd_bitPoly_crc16 (bytes : List Byte) :
    crcGenerator ∣ bitPoly crcSeed * X ^ (8 * bytes.length) + messagePoly bytes * X ^ 16 - bitPoly (crc16 bytes) := by
  induction bytes using List.reverseRecOn with
  | nil => simp [messagePoly, crc16]
  | append_singleton bytes b ih =>
    have hsum := (ih.mul_right (X ^ 8)).add (dvd_bitPoly_crcStep (crc16 bytes) b)
    rw [crc16_append_singleton, messagePoly_append_singleton, List.length_append, List.length_singleton]
    convert hsum using 1
    ring

/-! ### The statement -/

/-- Settles O16: what a step and a message leave differs from the product by a multiple of the generator. -/
theorem crcIsPolynomialRemainder : Obligations.CrcIsPolynomialRemainder := by
  refine ⟨fun c b => ?_, fun bytes => eq_modByMonic_of_dvd (dvd_bitPoly_crc16 bytes)⟩
  refine eq_modByMonic_of_dvd (p := bitPoly (c ^^^ (b ++ 0#8)) * X ^ 8) ?_
  rw [crcStep_eq_append]
  exact dvd_bitPoly_crcShifts 8 _

end Sys2Proof.Proofs
end

section
/-! SUPPORT. Runs of queue operations (R40, R41, R99) and a push and a pop of one instant (R101): along a run the frames accepted
are those taken out, in order, followed by those still in the queue. -/

namespace Sys2Proof.Proofs

open Sys2Proof Sys2Proof.Machine Sys2Proof.Safety

/-! ### One operation of a run -/

theorem issue_keeps_invariant {a : Agent} {i : Instr} {s t : State} (hs : Invariant s) (h : issue a i s = .next t) :
    Invariant t :=
  exec_keeps_invariant (s := { s with issuer := a }) hs h

theorem issue_keeps_cfg {a : Agent} {i : Instr} {s t : State} (h : issue a i s = .next t) : t.cfg = s.cfg :=
  (exec_keeps_port h).1

theorem issue_clear (s : State) : issue .foreground .rxqClear s = .next { s with
    rd := 0, wr := 0, low := false, issuer := .foreground, out := { result := .none, overflow := false } } :=
  (execRxqClear_eq_next (s := { s with issuer := .foreground })).mpr ⟨rfl, rfl⟩

theorem queue_issue_push {s t : State} {f : Frame} (hs : IndicesOk s) (h : issue .busProducer (.rxqPush f) s = .next t) :
    (s.full = true ∧ t.out = { result := .accepted false, overflow := true } ∧ queue t = queue s) ∨
    (s.full = false ∧ t.out = { result := .accepted true, overflow := false } ∧ queue t = queue s ++ [some f]) :=
  queue_push (s := { s with issuer := .busProducer }) hs h

theorem issue_pop_of_nil {s t : State} (hs : IndicesOk s) (h : issue .foreground .rxqPop s = .next t)
    (hqueue : queue s = []) : (∃ g, t.out.result = .popped false g) ∧ queue t = [] := by
  obtain ⟨-, hnone⟩ | ⟨hcons, -⟩ := queue_pop (s := { s with issuer := .foreground }) hs h
  · exact hnone
  · exact absurd (hcons.symm.trans hqueue) (List.cons_ne_nil _ _)

theorem issue_pop_of_cons {s t : State} {f : Frame} {rest : List (Option Frame)} (hs : Invariant s)
    (h : issue .foreground .rxqPop s = .next t) (hqueue : queue s = some f :: rest) :
    (∃ g, t.out.result = .popped true g ∧ visible g = visible f) ∧ queue t = rest := by
  obtain ⟨-, hindices, -, hlive, -⟩ := hs
  obtain ⟨⟨f', g, hf, hresult, hvisible⟩, hrest⟩ :=
    pop_answers_head (s := { s with issuer := .foreground }) hindices hlive h hqueue
  cases hf
  exact ⟨⟨g, hresult, hvisible⟩, hrest⟩

theorem runQueue_cons {op : QueueOp} {ops : List QueueOp} {q : QueueRun} {t : State}
    (h : issue (queueInstr op).1 (queueInstr op).2 q.state = .next t) :
    runQueue (op :: ops) q = runQueue ops (recordQueueOp q op t) := by
  simp only [runQueue, h]

theorem recordQueueOp_state (q : QueueRun) (op : QueueOp) (t : State) : (recordQueueOp q op t).state = t := by
  unfold recordQueueOp
  split <;> rfl

theorem recordQueueOp_accepted {q : QueueRun} {f : Frame} {t : State} (h : t.out.result = .accepted true) :
    recordQueueOp q (.push f) t = { q with accepted := q.accepted ++ [f], state := t } := by
  simp only [recordQueueOp, h]

theorem recordQueueOp_dropped {q : QueueRun} {f : Frame} {t : State} (h : t.out.result = .accepted false) :
    recordQueueOp q (.push f) t = { q with state := t } := by
  simp only [recordQueueOp, h]

theorem recordQueueOp_popped {q : QueueRun} {g : Frame} {t : State} (h : t.out.result = .popped true g) :
    recordQueueOp q .pop t = { q with delivered := q.delivered ++ [g], state := t } := by
  simp only [recordQueueOp, h]

theorem recordQueueOp_none {q : QueueRun} {g : Frame} {t : State} (h : t.out.result = .popped false g) :
    recordQueueOp q .pop t = { q with state := t } := by
  simp only [recordQueueOp, h]

/-! ### Order of acceptance -/

/-- R41: the frames accepted are those taken out, which look as those delivered do, followed by those in the queue. -/
def DeliveredInOrder (q : QueueRun) : Prop :=
  ∃ taken waits, q.accepted = taken ++ waits ∧ q.delivered.map visible = taken.map visible ∧ queue q.state = waits.map some

theorem recordQueueOp_keeps_order {op : QueueOp} {q : QueueRun} {t : State} (hs : Invariant q.state)
    (horder : DeliveredInOrder q) (h : issue (queueInstr op).1 (queueInstr op).2 q.state = .next t) :
    DeliveredInOrder (recordQueueOp q op t) := by
  obtain ⟨taken, waits, haccepted, hdelivered, hqueue⟩ := horder
  cases op with
  | push f =>
    obtain ⟨-, hout, hkept⟩ | ⟨-, hout, happended⟩ := queue_issue_push (indicesOk_of_invariant hs) h
    · rw [recordQueueOp_dropped (by rw [hout])]
      exact ⟨taken, waits, haccepted, hdelivered, hkept.trans hqueue⟩
    · rw [recordQueueOp_accepted (by rw [hout])]
      refine ⟨taken, waits ++ [f], ?_, hdelivered, ?_⟩
      · rw [haccepted, List.append_assoc]
      · rw [happended, hqueue, List.map_append, List.map_singleton]
  | pop =>
    cases waits with
    | nil =>
      obtain ⟨⟨g, hresult⟩, hnil⟩ := issue_pop_of_nil (indicesOk_of_invariant hs) h hqueue
      rw [recordQueueOp_none hresult]
      exact ⟨taken, [], haccepted, hdelivered, hnil⟩
    | cons f waits =>
      obtain ⟨⟨g, hresult, hvisible⟩, hrest⟩ := issue_pop_of_cons hs h hqueue
      rw [recordQueueOp_popped hresult]
      refine ⟨taken ++ [f], waits, ?_, ?_, hrest⟩
      · rw [haccepted, List.append_assoc, List.singleton_append]
      · rw [List.map_append, hdelivered, List.map_singleton, hvisible, List.map_append, List.map_singleton]
  | clear =>
    cases (issue_clear q.state).symm.trans h
    exact ⟨[], [], rfl, rfl, queue_of_cleared rfl rfl rfl⟩

theorem runQueue_keeps_order {ops : List QueueOp} {q : QueueRun} (hs : Invariant q.state) (horder : DeliveredInOrder q)
    (hlegal : ∀ f, QueueOp.push f ∈ ops → f.lengthOk) : ∃ q', runQueue ops q = some q' ∧ DeliveredInOrder q' := by
  induction ops generalizing q with
  | nil => exact ⟨q, rfl, horder⟩
  | cons op ops ih =>
    obtain ⟨t, ht⟩ := issue_queueInstr_completes (op := op) (indicesOk_of_invariant hs) fun f hf =>
      hlegal f (hf ▸ List.mem_cons_self)
    rw [runQueue_cons ht]
    refine ih ?_ (recordQueueOp_keeps_order hs horder ht) fun f hf => hlegal f (List.mem_cons_of_mem _ hf)
    rw [recordQueueOp_state]
    exact issue_keeps_invariant hs ht

/-! ### Runs of pushes and runs of pops -/

theorem runQueue_pushes {fs : List Frame} {q : QueueRun} (hs : Invariant q.state) (hlegal : ∀ f ∈ fs, f.lengthOk)
    (hroom : (queue q.state).length + fs.length ≤ q.state.cfg.capacity) :
    ∃ t, runQueue (fs.map .push) q = some { q with accepted := q.accepted ++ fs, state := t } ∧ Invariant t ∧
      t.cfg = q.state.cfg ∧ queue t = queue q.state ++ fs.map some := by
  induction fs generalizing q with
  | nil => exact ⟨q.state, by rw [List.append_nil]; rfl, hs, rfl, (List.append_nil _).symm⟩
  | cons f fs ih =>
    obtain ⟨hf, hlegal⟩ := List.forall_mem_cons.mp hlegal
    rw [List.length_cons] at hroom
    have hfull : q.state.full = false := (length_queue_lt_iff (indicesOk_of_invariant hs)).mp (by omega)
    obtain ⟨t, ht⟩ := issue_queueInstr_completes (op := .push f) (indicesOk_of_invariant hs) (by rintro _ ⟨⟩; exact hf)
    obtain ⟨hfull', -⟩ | ⟨-, hout, hqueue⟩ := queue_issue_push (indicesOk_of_invariant hs) ht
    · exact absurd (hfull.symm.trans hfull') Bool.false_ne_true
    · have hcfg : t.cfg = q.state.cfg := issue_keeps_cfg ht
      obtain ⟨u, hrun, hu, hucfg, huqueue⟩ := ih (q := { q with accepted := q.accepted ++ [f], state := t })
        (issue_keeps_invariant hs ht) hlegal (by simp only [hqueue, hcfg, List.length_append, List.length_singleton]; omega)
      refine ⟨u, ?_, hu, hucfg.trans hcfg, ?_⟩
      · rw [List.map_cons, runQueue_cons ht, recordQueueOp_accepted (by rw [hout]), hrun, List.append_assoc,
          List.singleton_append]
      · rw [huqueue, hqueue, List.append_assoc, List.map_cons, List.singleton_append]

theorem runQueue_pops {fs : List Frame} {q : QueueRun} (hs : Invariant q.state) (hqueue : queue q.state = fs.map some) :
    ∃ gs t, runQueue (List.replicate fs.length .pop) q = some { q with delivered := q.delivered ++ gs, state := t } ∧
      gs.map visible = fs.map visible ∧ Invariant t ∧ queue t = [] := by
  induction fs generalizing q with
  | nil => exact ⟨[], q.state, by rw [List.append_nil]; rfl, rfl, hs, hqueue⟩
  | cons f fs ih =>
    obtain ⟨t, ht⟩ := issue_queueInstr_completes (op := .pop) (indicesOk_of_invariant hs) nofun
    obtain ⟨⟨g, hresult, hvisible⟩, hrest⟩ := issue_pop_of_cons hs ht hqueue
    obtain ⟨gs, u, hrun, hgs, hu, hempty⟩ := ih (q := { q with delivered := q.delivered ++ [g], state := t })
      (issue_keeps_invariant hs ht) hrest
    refine ⟨g :: gs, u, ?_, by rw [List.map_cons, List.map_cons, hvisible, hgs], hu, hempty⟩
    rw [List.length_cons, List.replicate_succ, runQueue_cons ht, recordQueueOp_popped hresult, hrun, List.append_assoc,
      List.singleton_append]

/-! ### A push and a pop of one instant -/

theorem queue_push_of_full {s t : State} {f : Frame} (hs : IndicesOk s) (hfull : s.full = true)
    (h : execRxqPush f s = .next t) : t.out = { result := .accepted false, overflow := true } ∧ queue t = queue s :=
  ((queue_push hs h).resolve_right fun hroom => Bool.false_ne_true (hroom.1.symm.trans hfull)).2

theorem queue_pop_eq_tail {s t : State} (hs : IndicesOk s) (h : execRxqPop s = .next t) : queue t = (queue s).tail := by
  obtain ⟨hnil, -, hempty⟩ | ⟨hcons, -⟩ := queue_pop hs h
  · rw [hnil, hempty]; rfl
  · rw [hcons]; rfl

/-- R101: the pop makes room first, or the push finds the queue full; the pop takes the same frame in both orders. -/
theorem pop_beside_push_on_full {s : State} {f : Frame} {rest : List Arrival} (hs : IndicesOk s) (hfull : s.full = true)
    (hf : f.lengthOk)
    (hpending : s.pending = .requests (some (encode .rxqPop)) (some (encode (.rxqPush f))) none :: rest) :
    ∃ t u, step s = .next t ∧ step t = .next u ∧ u.pending = rest ∧
      (queue u = (queue s).tail ∨ queue u = (queue s).tail ++ [some f]) := by
  rcases serve_pair s.draws (Agent.foreground, encode .rxqPop) (Agent.busProducer, encode (.rxqPush f)) with hfirst | hfirst
  · have hpop := (step_of_serve hpending hfirst).trans (perform_of_ok (decode_encode .rxqPop) _)
    obtain ⟨t, ht⟩ : ∃ t, step s = .next t := by rw [hpop]; exact execRxqPop_completes rfl hs.1
    rw [ht] at hpop
    obtain ⟨-, -, htpending⟩ := exec_keeps_port hpop.symm
    have hindices : IndicesOk t := exec_keeps_indicesOk hpop.symm hs
    have hpush := step_of_alone (a := .busProducer) htpending (decode_encode (.rxqPush f))
    obtain ⟨u, hu⟩ : ∃ u, step t = .next u := by rw [hpush]; exact execRxqPush_completes rfl hf hindices.2
    rw [hu] at hpush
    obtain ⟨-, -, hupending⟩ := exec_keeps_port hpush.symm
    refine ⟨t, u, ht, hu, hupending, ?_⟩
    have htail := queue_pop_eq_tail (by exact hs) hpop.symm
    rw [show (queue s).tail = queue t from htail.symm]
    exact (queue_push (by exact hindices) hpush.symm).imp (fun ⟨_, _, hkept⟩ => hkept) fun ⟨_, _, happended⟩ => happended
  · have hpush := (step_of_serve hpending hfirst).trans (perform_of_ok (decode_encode (.rxqPush f)) _)
    obtain ⟨t, ht⟩ : ∃ t, step s = .next t := by rw [hpush]; exact execRxqPush_completes rfl hf hs.2
    rw [ht] at hpush
    obtain ⟨-, -, htpending⟩ := exec_keeps_port hpush.symm
    have hindices : IndicesOk t := exec_keeps_indicesOk hpush.symm hs
    have hpop := step_of_alone (a := .foreground) htpending (decode_encode .rxqPop)
    obtain ⟨u, hu⟩ : ∃ u, step t = .next u := by rw [hpop]; exact execRxqPop_completes rfl hindices.1
    rw [hu] at hpop
    obtain ⟨-, -, hupending⟩ := exec_keeps_port hpop.symm
    obtain ⟨-, hsame⟩ := queue_push_of_full (by exact hs) (by exact hfull) hpush.symm
    exact ⟨t, u, ht, hu, hupending,
      .inl ((queue_pop_eq_tail (by exact hindices) hpop.symm).trans (congrArg List.tail hsame))⟩

/-! ### The statements -/

/-- Settles O30: four pushes with room, one without, four pops, one of the empty queue, and a clear. -/
theorem referenceScenario : Obligations.ReferenceScenario := by
  refine ⟨fun s => ⟨_, issue_clear s, rfl, rfl, rfl⟩, fun s a b c d e hs hcapacity hempty ha hb hc hd he => ?_⟩
  have hnil : queue s = [] := (queue_eq_nil_iff (indicesOk_of_invariant hs)).mpr hempty
  obtain ⟨t4, hrun4, hs4, hcfg4, hqueue4⟩ := runQueue_pushes (fs := [a, b, c, d])
    (q := { accepted := [], delivered := [], state := s }) hs (by simp [ha, hb, hc, hd]) (by simp [hnil, hcapacity])
  obtain ⟨t5, ht5⟩ := issue_queueInstr_completes (op := .push e) (indicesOk_of_invariant hs4) (by rintro _ ⟨⟩; exact he)
  have hfull4 : t4.full = true :=
    (full_iff_count (indicesOk_of_invariant hs4)).mpr (by rw [← length_queue, hqueue4, hcfg4, hnil, hcapacity]; rfl)
  obtain ⟨hout5, hqueue5⟩ := queue_push_of_full (s := { t4 with issuer := .busProducer }) (indicesOk_of_invariant hs4)
    hfull4 ht5
  replace hqueue5 : queue t5 = queue t4 := hqueue5
  rw [hqueue4, hnil] at hqueue5
  have hs5 : Invariant t5 := issue_keeps_invariant hs4 ht5
  obtain ⟨gs, t9, hrun9, hgs, hs9, hqueue9⟩ := runQueue_pops (fs := [a, b, c, d])
    (q := { accepted := [a, b, c, d], delivered := [], state := t5 }) hs5 hqueue5
  obtain ⟨t10, ht10⟩ := issue_queueInstr_completes (op := .pop) (indicesOk_of_invariant hs9) nofun
  obtain ⟨⟨g, hresult10⟩, -⟩ := issue_pop_of_nil (indicesOk_of_invariant hs9) ht10 hqueue9
  refine ⟨_, _, _, _, _, hrun4, rfl, (runQueue_cons ht5).trans ?_, hout5, hqueue5, hrun9, hgs, runQueue_cons ht10, ?_,
    runQueue_cons (issue_clear _), rfl, rfl, rfl⟩
  · exact congrArg some (recordQueueOp_dropped (by rw [hout5]))
  · rw [recordQueueOp_none hresult10]

/-- Settles O31: the order of acceptance along the run, read at its end. -/
theorem framesDeliveredInOrderOfAcceptance : Obligations.FramesDeliveredInOrderOfAcceptance := by
  intro s ops hs hempty hlegal
  have hnil : queue s = [] := (queue_eq_nil_iff (indicesOk_of_invariant hs)).mpr hempty
  obtain ⟨q, hrun, taken, waits, haccepted, hdelivered, hqueue⟩ :=
    runQueue_keeps_order (q := { accepted := [], delivered := [], state := s }) hs ⟨[], [], rfl, rfl, hnil⟩ hlegal
  have hlength : q.delivered.length = taken.length := by simpa using congrArg List.length hdelivered
  refine ⟨q, hrun, ?_, ?_⟩
  · rw [haccepted, List.map_append, hlength, List.take_left' (List.length_map _), hdelivered]
  · rw [haccepted, hlength, List.drop_left, hqueue]

/-- Settles O55: either order of the two. -/
theorem pushBesidePopOnFullQueue : Obligations.PushBesidePopOnFullQueue := fun _ _ _ hs =>
  pop_beside_push_on_full (indicesOk_of_invariant hs)

end Sys2Proof.Proofs
end

section
/-! SUPPORT. The identifier packed and unpacked in both directions (R80, R81, R83), and a payload's bytes put together again
(R34, R134). -/

namespace Sys2Proof.Proofs

open Sys2Proof Sys2Proof.Machine Sys2Proof.Safety

/-! ### Identifiers -/

/-- R80: the three fields side by side, the top seven bits 0. -/
theorem packId_eq_append (command : BitVec 8) (responseBit : Bool) (hash : BitVec 16) :
    packId command responseBit hash = 0#7 ++ command ++ BitVec.ofBool responseBit ++ hash := by
  refine BitVec.eq_of_getLsbD_eq fun i hi => ?_
  rw [getLsbD_packId command responseBit hash hi, BitVec.getLsbD_append, BitVec.getLsbD_append, BitVec.getLsbD_append,
    BitVec.getLsbD_zero]
  rcases lt_trichotomy i 16 with hlow | rfl | hhigh
  · rw [if_pos hlow, if_pos hlow]
  · cases responseBit <;> rfl
  · rw [if_neg (by omega), if_neg (by omega), if_neg (by omega), if_neg (by omega), Nat.sub_sub]
    split
    · rfl
    · exact command.getLsbD_of_ge _ (by omega)

/-- R56, R81: packed in format D, the four ranges are the low 29 bits they were taken from. -/
theorem packFields_unpackId (id : Carrier) : packFields (unpackId id) = id.setWidth 29 := by
  simp only [packFields, unpackId_eq_bitRanges, ofBool_getLsbD_eq_extractLsb']
  rw [BitVec.extractLsb'_append_extractLsb'_eq_extractLsb' (show 25 = 17 + 8 by decide),
    BitVec.extractLsb'_append_extractLsb'_eq_extractLsb' (show 17 = 16 + 1 by decide),
    BitVec.extractLsb'_append_extractLsb'_eq_extractLsb' (Nat.zero_add 16).symm,
    BitVec.setWidth_eq_extractLsb' (show 29 ≤ 32 by decide)]
  exact BitVec.setWidth_eq _

theorem packId_unpackId (id : Carrier) :
    packId (unpackId id).command (unpackId id).responseBit (unpackId id).hash = id &&& 0x01FFFFFF#32 := by
  have hmask : 0x01FFFFFF#32 = (BitVec.allOnes 25).setWidth 32 := by decide
  refine BitVec.eq_of_getLsbD_eq fun i hi => ?_
  rw [getLsbD_packId _ _ _ hi, unpackId_eq_bitRanges, BitVec.getLsbD_and, hmask, BitVec.getLsbD_setWidth,
    BitVec.getLsbD_allOnes, BitVec.getLsbD_extractLsb', BitVec.getLsbD_extractLsb', Nat.zero_add]
  rcases lt_trichotomy i 16 with hlow | rfl | hhigh
  · simp [hlow, hi, show i < 25 by omega]
  · simp
  · simp [hhigh.not_gt, hhigh.ne', hi, show 17 + (i - 17) = i by omega, show i - 17 < 8 ↔ i < 25 by omega, Bool.and_comm]

theorem toNat_packId_unpackId (id : Carrier) :
    (packId (unpackId id).command (unpackId id).responseBit (unpackId id).hash).toNat = id.toNat % 2 ^ 25 := by
  rw [packId_unpackId, BitVec.toNat_and]
  exact Nat.and_two_pow_sub_one_eq_mod id.toNat 25

theorem packId_unpackId_eq_self_iff (id : Carrier) :
    packId (unpackId id).command (unpackId id).responseBit (unpackId id).hash = id ↔ id.toNat < 2 ^ 25 := by
  rw [← BitVec.toNat_inj, toNat_packId_unpackId]
  exact Nat.mod_eq_iff_lt (by decide)

theorem extractLsb'_high_eq_zero_iff (id : Carrier) : id.extractLsb' 25 7 = 0#7 ↔ id.toNat < 2 ^ 25 := by
  have := id.isLt
  rw [← BitVec.toNat_inj, BitVec.extractLsb'_toNat, Nat.shiftRight_eq_div_pow, BitVec.toNat_zero]
  omega

theorem packId_injective {command command' : BitVec 8} {responseBit responseBit' : Bool} {hash hash' : BitVec 16}
    (h : packId command responseBit hash = packId command' responseBit' hash') :
    command = command' ∧ responseBit = responseBit' ∧ hash = hash' := by
  have hfields := congrArg unpackId h
  rw [unpackId_packId, unpackId_packId, IdFields.mk.injEq] at hfields
  exact hfields.2

/-- R83: what ID.ENCODE answers, its decoded fields encode to again. -/
theorem mem_image_packId_iff (id : Carrier) : (∃ c r h, packId c r h = id) ↔ id.toNat < 2 ^ 25 := by
  rw [← packId_unpackId_eq_self_iff]
  constructor
  · rintro ⟨c, r, h, rfl⟩
    rw [unpackId_packId]
  · exact fun h => ⟨_, _, _, h⟩

/-! ### Payloads -/

theorem append_bytes32 (v : BitVec 32) :
    v.extractLsb' 24 8 ++ v.extractLsb' 16 8 ++ v.extractLsb' 8 8 ++ v.extractLsb' 0 8 = v := by
  rw [BitVec.extractLsb'_append_extractLsb'_eq_extractLsb' (show 24 = 16 + 8 by decide),
    BitVec.extractLsb'_append_extractLsb'_eq_extractLsb' (show 16 = 8 + 8 by decide),
    BitVec.extractLsb'_append_extractLsb'_eq_extractLsb' (Nat.zero_add 8).symm]
  exact BitVec.extractLsb'_eq_self

/-- R134: the identity's fields are read where the payload has them. -/
theorem peerIdentity_of_payload {f : Frame} {uid : BitVec 32} {sversion : BitVec 16} {reserved type : Byte}
    (hlength : f.length = 8#4)
    (hdata : f.data.toList =
      [uid.extractLsb' 24 8, uid.extractLsb' 16 8, uid.extractLsb' 8 8, uid.extractLsb' 0 8,
       sversion.extractLsb' 8 8, sversion.extractLsb' 0 8, reserved, type]) :
    peerIdentity f = some { uid := uid, sversion := sversion, deviceType := type } := by
  have hvector : f.data = #v[uid.extractLsb' 24 8, uid.extractLsb' 16 8, uid.extractLsb' 8 8, uid.extractLsb' 0 8,
      sversion.extractLsb' 8 8, sversion.extractLsb' 0 8, reserved, type] := Vector.toList_inj.mp hdata
  rw [peerIdentity, if_pos hlength, hvector]
  exact congrArg some (PeerIdentity.mk.injEq .. ▸ ⟨append_bytes32 uid, BitVec.extractLsb'_append_extractLsb', rfl⟩)

/-! ### The statements -/

/-- Settles O18: the operation by its inversion lemma, its answer bit by bit. -/
theorem idEncodeAnswersFieldsSideBySide : Obligations.IdEncodeAnswersFieldsSideBySide := by
  intro command responseBit hash s
  rw [← packId_eq_append]
  exact execIdEncode_eq_next.mpr rfl

/-- Settles O19: the operation by its inversion lemma; the ranges are adjacent, so packing them loses none of the 29 bits. -/
theorem idDecodeAnswersBitRanges : Obligations.IdDecodeAnswersBitRanges := by
  intro id s
  rw [← unpackId_eq_bitRanges]
  exact ⟨execIdDecode_eq_next.mpr rfl, packFields_unpackId id⟩

/-- Settles O21: decoding and encoding masks the low 25 bits; what stays as it is under the mask is the image. -/
theorem idEncodeImage : Obligations.IdEncodeImage :=
  ⟨packId_unpackId, fun id => (packId_unpackId_eq_self_iff id).trans (extractLsb'_high_eq_zero_iff id).symm,
    fun _ _ _ _ _ _ => packId_injective, mem_image_packId_iff⟩

/-- Settles O60: the bytes put together again; the engine's own answer is such a payload. -/
theorem identityPayloadRoundTrip : Obligations.IdentityPayloadRoundTrip := fun _ _ _ _ _ hlength =>
  ⟨peerIdentity_of_payload hlength, peerIdentity_of_payload hlength⟩

end Sys2Proof.Proofs
end

section
/-! SUPPORT. The timeout service (R18 to R21, R105 to R116): what a flag answers after any number of ticks, who writes flags and
counter, and that the width of the counter cannot be observed. -/

namespace Sys2Proof.Proofs

open Sys2Proof Sys2Proof.Machine Sys2Proof.Safety

/-! ### Flags after ticks -/

/-- The table of R5, R19 and R112 that the statements write out, by flag. -/
theorem flag_of_mem_table {e : Nat × Nat} (h : e ∈ ([(0, 62), (1, 625), (2, 30), (3, 4), (4, 150)] : List (Nat × Nat))) :
    ∃ f, e = (flagIndex f, baseThreshold f) := by
  simp only [List.mem_cons, List.not_mem_nil, or_false] at h
  rcases h with rfl | rfl | rfl | rfl | rfl
  · exact ⟨.lostCard, rfl⟩
  · exact ⟨.devBoot, rfl⟩
  · exact ⟨.devCalc, rfl⟩
  · exact ⟨.timeout, rfl⟩
  · exact ⟨.firstPing, rfl⟩

theorem flagIndex_injective {f g : Flag} (h : flagIndex f = flagIndex g) : f = g := by
  have hoperand : flagOperand f = flagOperand g := by rw [flagOperand, flagOperand, h]
  exact Option.some.inj (by rw [← flagOfIndex_flagOperand f, hoperand, flagOfIndex_flagOperand])

/-- R105: the state an issued tick leads to. -/
def tickedState (s : State) : State :=
  { s with
    issuer := .tickSource
    ticks := nextTick s.cfg s.ticks
    flags := expireFlags s.cfg (nextTick s.cfg s.ticks) s.flags
    out := { result := .none, overflow := false } }

/-- R107: the state an issued arming leads to. -/
def armedState (f : Flag) (s : State) : State :=
  { s with
    issuer := .foreground
    ticks := 0
    flags := raiseFlag s.flags f
    out := { result := .none, overflow := false } }

theorem issue_tick_eq (s : State) : issue .tickSource .tmrTick s = .next (tickedState s) := issue_tick s

theorem issue_arm_eq (f : Flag) (s : State) : issue .foreground (.tmrArm (flagOperand f)) s = .next (armedState f s) :=
  issue_arm s f

/-- R21 for one flag. -/
def WindowOpen (f : Flag) (s : State) : Prop := flagSet s.flags f = true → s.ticks < threshold s.cfg f

/-- The flag is set and its threshold lies more than `n` ticks ahead. -/
def survives (f : Flag) (n : Nat) (s : State) : Bool := flagSet s.flags f && decide (s.ticks + n < threshold s.cfg f)

theorem survives_of_clear {f : Flag} {s : State} (h : flagSet s.flags f = false) (n : Nat) : survives f n s = false := by
  rw [survives, h, Bool.false_and]

theorem survives_of_set {f : Flag} {s : State} (h : flagSet s.flags f = true) (n : Nat) :
    survives f n s = decide (s.ticks + n < threshold s.cfg f) := by
  rw [survives, h, Bool.true_and]

theorem survives_zero {f : Flag} {s : State} (h : WindowOpen f s) : survives f 0 s = flagSet s.flags f := by
  cases hset : flagSet s.flags f with
  | false => exact survives_of_clear hset 0
  | true => exact (survives_of_set hset 0).trans (decide_eq_true (h hset))

theorem windowOpen_of_windowsOpen {s : State} (h : WindowsOpen s) (f : Flag) : WindowOpen f s := h f (mem_allFlags f)

/-- One tick, seen by a flag whose window is open if it is set: it stays set while the new value is below its threshold. -/
theorem flagSet_tickedState {f : Flag} {s : State} (hvalid : s.cfg.Valid) (hopen : WindowOpen f s) :
    flagSet (tickedState s).flags f = survives f 1 s := by
  refine (flagSet_expireFlags s.cfg (nextTick s.cfg s.ticks) s.flags f).trans ?_
  cases hset : flagSet s.flags f with
  | false => exact (survives_of_clear hset 1).symm
  | true =>
    have hlt := hopen hset
    rw [survives_of_set hset, nextTick_of_lt hvalid hlt, Bool.true_and, decide_eq_decide]
    omega

theorem ticks_tickedState {f : Flag} {s : State} (hvalid : s.cfg.Valid) (hopen : WindowOpen f s)
    (hset : flagSet s.flags f = true) : (tickedState s).ticks = s.ticks + 1 :=
  nextTick_of_lt hvalid (hopen hset)

theorem survives_tickedState {f : Flag} {s : State} (hvalid : s.cfg.Valid) (hopen : WindowOpen f s) (n : Nat) :
    survives f n (tickedState s) = survives f (n + 1) s := by
  rw [survives, flagSet_tickedState hvalid hopen]
  cases hset : flagSet s.flags f with
  | false => rw [survives_of_clear hset, survives_of_clear hset, Bool.false_and]
  | true =>
    rw [survives_of_set hset, survives_of_set hset, ticks_tickedState hvalid hopen hset, ← Bool.decide_and, decide_eq_decide]
    change s.ticks + 1 < threshold s.cfg f ∧ s.ticks + 1 + n < threshold s.cfg f ↔ _
    omega

theorem windowOpen_tickedState {f : Flag} {s : State} (hvalid : s.cfg.Valid) (hopen : WindowOpen f s) :
    WindowOpen f (tickedState s) := by
  intro hset'
  rw [flagSet_tickedState hvalid hopen] at hset'
  cases hset : flagSet s.flags f with
  | false => exact absurd ((survives_of_clear hset 1).symm.trans hset') Bool.false_ne_true
  | true =>
    rw [survives_of_set hset, decide_eq_true_eq] at hset'
    rw [ticks_tickedState hvalid hopen hset]
    exact hset'

theorem ticks_armedState (armed : Flag) (s : State) : (armedState armed s).ticks = 0 := rfl

theorem flagSet_armedState (armed f : Flag) (s : State) :
    flagSet (armedState armed s).flags f = (decide (f = armed) || flagSet s.flags f) :=
  flagSet_raiseFlag s.flags armed f

theorem windowOpen_armedState {s : State} (hvalid : s.cfg.Valid) (armed f : Flag) : WindowOpen f (armedState armed s) :=
  fun _ => Nat.zero_lt_of_lt (threshold_pos hvalid f)

/-- R21, R111: `k` ticks complete, and leave a set flag set while its threshold has not come. -/
theorem runOps_tickTimes (k : Nat) {s : State} {f : Flag} (hvalid : s.cfg.Valid) (hopen : WindowOpen f s) :
    ∃ t, runOps (tickTimes k) s = .next t ∧ flagSet t.flags f = survives f k s := by
  induction k generalizing s with
  | zero => exact ⟨s, rfl, (survives_zero hopen).symm⟩
  | succ k ih =>
    obtain ⟨t, hrun, hflag⟩ := ih (s := tickedState s) hvalid (windowOpen_tickedState hvalid hopen)
    exact ⟨t, (runOps_cons (issue_tick_eq s)).trans hrun, hflag.trans (survives_tickedState hvalid hopen k)⟩

/-- Ticks and then a test of a set flag whose window is open. -/
theorem runOps_tickTimes_test (k : Nat) {s : State} {f : Flag} (hvalid : s.cfg.Valid) (hset : flagSet s.flags f = true)
    (hopen : WindowOpen f s) :
    ∃ t, runOps (tickTimes k ++ [(.foreground, .tmrTest (flagOperand f))]) s = .next t ∧
      t.out.result = .set (decide (s.ticks + k < threshold s.cfg f)) := by
  obtain ⟨t, hrun, hflag⟩ := runOps_tickTimes k hvalid hopen
  rw [survives_of_set hset] at hflag
  exact ⟨_, (runOps_append hrun).trans (runOps_cons (issue_test t f)), congrArg Result.set hflag⟩

/-- R110, R111: an arming opens the window of every flag that is then set anew. -/
theorem runOps_arm_tickTimes_test (k : Nat) {s : State} {armed f : Flag} (hvalid : s.cfg.Valid)
    (hset : f = armed ∨ flagSet s.flags f = true) :
    ∃ t, runOps ((.foreground, .tmrArm (flagOperand armed)) ::
          (tickTimes k ++ [(.foreground, .tmrTest (flagOperand f))])) s = .next t ∧
      t.out.result = .set (decide (k < threshold s.cfg f)) := by
  have hraised : flagSet (armedState armed s).flags f = true := by
    rw [flagSet_armedState, Bool.or_eq_true, decide_eq_true_eq]
    exact hset
  obtain ⟨t, hrun, hresult⟩ := runOps_tickTimes_test k (s := armedState armed s) hvalid hraised
    (windowOpen_armedState hvalid armed f)
  exact ⟨t, (runOps_cons (issue_arm_eq armed s)).trans hrun, by rw [hresult, ticks_armedState, Nat.zero_add]; rfl⟩

/-! ### The width of the counter -/

/-- An operation of another unit reads of parameters and counter nothing but the capacity. -/
theorem exec_ignores_counter {i : Instr} {s t : State} (hi : writesTimer i = false) (h : exec i s = .next t) {c : Config}
    (hcapacity : c.capacity = s.cfg.capacity) (n : Nat) :
    exec i { s with cfg := c, ticks := n } = .next { t with cfg := c, ticks := n } := by
  cases i with
  | crcInit => obtain ⟨hcontext, rfl⟩ := execCrcInit_eq_next.mp h; exact execCrcInit_eq_next.mpr ⟨hcontext, rfl⟩
  | crcUpdate => obtain ⟨hcontext, rfl⟩ := execCrcUpdate_eq_next.mp h; exact execCrcUpdate_eq_next.mpr ⟨hcontext, rfl⟩
  | crcRead => obtain ⟨hcontext, rfl⟩ := execCrcRead_eq_next.mp h; exact execCrcRead_eq_next.mpr ⟨hcontext, rfl⟩
  | idEncode => obtain rfl := execIdEncode_eq_next.mp h; exact execIdEncode_eq_next.mpr rfl
  | idDecode => obtain rfl := execIdDecode_eq_next.mp h; exact execIdDecode_eq_next.mpr rfl
  | rxqPush =>
    have hnext : nextIndex c s.wr = nextIndex s.cfg s.wr := by rw [nextIndex, nextIndex, hcapacity]
    obtain ⟨hcontext, hf, ⟨hfull, rfl⟩ | ⟨hfull, hwr, rfl⟩⟩ := execRxqPush_eq_next.mp h
    · exact execRxqPush_eq_next.mpr ⟨hcontext, hf, .inl ⟨hfull, rfl⟩⟩
    · exact execRxqPush_eq_next.mpr ⟨hcontext, hf, .inr ⟨hfull, hcapacity ▸ hwr, by rw [hnext]⟩⟩
  | rxqPop =>
    have hnext : nextIndex c s.rd = nextIndex s.cfg s.rd := by rw [nextIndex, nextIndex, hcapacity]
    obtain ⟨hcontext, ⟨hempty, rfl⟩ | ⟨hempty, hrd, rfl⟩⟩ := execRxqPop_eq_next.mp h
    · exact execRxqPop_eq_next.mpr ⟨hcontext, .inl ⟨hempty, rfl⟩⟩
    · exact execRxqPop_eq_next.mpr ⟨hcontext, .inr ⟨hempty, hcapacity ▸ hrd, by rw [hnext]; rfl⟩⟩
  | rxqClear => obtain ⟨hcontext, rfl⟩ := execRxqClear_eq_next.mp h; exact execRxqClear_eq_next.mpr ⟨hcontext, rfl⟩
  | tmrTest =>
    obtain ⟨hcontext, f, hf, rfl⟩ := execTmrTest_eq_next.mp h
    exact execTmrTest_eq_next.mpr ⟨hcontext, f, hf, rfl⟩
  | tmrTick => cases hi
  | tmrArm => cases hi
  | tmrClear => cases hi

/-- The counter of width `c.tickBits` that stands for an unbounded one at `n`. -/
def wrapTick (c : Config) (n : Nat) : Nat :=
  match c.tickBits with
  | none => n
  | some w => n % 2 ^ w

theorem wrapTick_zero (c : Config) : wrapTick c 0 = 0 := by
  unfold wrapTick
  split <;> simp

theorem nextTick_wrapTick (c : Config) (n : Nat) : nextTick c (wrapTick c n) = wrapTick c (n + 1) := by
  cases hbits : c.tickBits <;> simp [nextTick, wrapTick, hbits]

theorem nextTick_unbounded (c : Config) (n : Nat) : nextTick { c with tickBits := none } n = n + 1 := rfl

/-- R114: up to the largest threshold the counter does not wrap. -/
theorem wrapTick_of_le {c : Config} (hvalid : c.Valid) {f : Flag} {n : Nat} (h : n ≤ threshold c f) : wrapTick c n = n := by
  have hle := threshold_le c f
  obtain ⟨-, -, hbits⟩ := hvalid
  unfold wrapTick
  cases hb : c.tickBits with
  | none => rfl
  | some w =>
    rw [hb, Option.all_some, decide_eq_true_eq] at hbits
    exact Nat.mod_eq_of_lt (by omega)

theorem valid_unbounded {c : Config} (h : c.Valid) : ({ c with tickBits := none } : Config).Valid := by
  obtain ⟨hcapacity, hscale, -⟩ := h
  exact ⟨hcapacity, hscale, rfl⟩

/-- A tick clears the same flags, wrap or no wrap: only set flags count, and their thresholds lie ahead. -/
theorem expireFlags_wrapTick {c : Config} (hvalid : c.Valid) {flags : BitVec 5} {n : Nat}
    (hopen : ∀ f ∈ allFlags, flagSet flags f = true → n < threshold c f) :
    expireFlags { c with tickBits := none } (n + 1) flags = expireFlags c (wrapTick c (n + 1)) flags := by
  refine flags_ext fun f => ?_
  rw [flagSet_expireFlags, flagSet_expireFlags]
  cases hset : flagSet flags f with
  | false => rfl
  | true =>
    have hlt := hopen f (mem_allFlags f) hset
    rw [wrapTick_of_le hvalid hlt]
    rfl

theorem sameUpToWidth_iff {s u : State} : sameUpToWidth s u ↔
    u.cfg = { s.cfg with tickBits := none } ∧ s = { u with cfg := s.cfg, ticks := s.ticks } ∧
      s.ticks = wrapTick s.cfg u.ticks := Iff.rfl

/-- R114, one operation: the unbounded block answers too, alike, and stays the same up to the width. -/
theorem exec_sameUpToWidth {i : Instr} {s t u : State} (hvalid : s.cfg.Valid) (hsame : sameUpToWidth s u)
    (hopen : WindowsOpen u) (h : exec i s = .next t) :
    ∃ v, exec i u = .next v ∧ v.out = t.out ∧ sameUpToWidth t v := by
  obtain ⟨hcfg, hs, hticks⟩ := sameUpToWidth_iff.mp hsame
  have hu : u = { s with cfg := u.cfg, ticks := u.ticks } := by rw [hs]
  have hissuer : u.issuer = s.issuer := by rw [hs]
  have hflags : u.flags = s.flags := by rw [hs]
  cases i with
  | tmrTick =>
    obtain ⟨hcontext, rfl⟩ := execTmrTick_eq_next.mp h
    have hclock : nextTick u.cfg u.ticks = u.ticks + 1 := by rw [hcfg, nextTick_unbounded]
    have hwrapped : nextTick s.cfg s.ticks = wrapTick s.cfg (u.ticks + 1) := by rw [hticks, nextTick_wrapTick]
    have hopen' : ∀ f ∈ allFlags, flagSet s.flags f = true → u.ticks < threshold s.cfg f := by
      rw [WindowsOpen, hflags, hcfg] at hopen
      exact hopen
    have hexpire : expireFlags u.cfg (nextTick u.cfg u.ticks) u.flags =
        expireFlags s.cfg (nextTick s.cfg s.ticks) s.flags := by
      rw [hclock, hwrapped, hcfg, hflags, expireFlags_wrapTick hvalid hopen']
    refine ⟨_, execTmrTick_eq_next.mpr ⟨hissuer ▸ hcontext, rfl⟩, rfl, sameUpToWidth_iff.mpr ⟨hcfg, ?_, ?_⟩⟩
    · rw [hexpire, hu]
    · exact hwrapped.trans (by rw [hclock])
  | tmrArm k =>
    obtain ⟨hcontext, f, hf, rfl⟩ := execTmrArm_eq_next.mp h
    refine ⟨_, execTmrArm_eq_next.mpr ⟨hissuer ▸ hcontext, f, hf, rfl⟩, rfl, sameUpToWidth_iff.mpr ⟨hcfg, ?_, ?_⟩⟩
    · rw [hs]
    · exact (wrapTick_zero s.cfg).symm
  | tmrClear =>
    obtain ⟨hcontext, rfl⟩ := execTmrClear_eq_next.mp h
    refine ⟨_, execTmrClear_eq_next.mpr ⟨hissuer ▸ hcontext, rfl⟩, rfl, sameUpToWidth_iff.mpr ⟨hcfg, ?_, ?_⟩⟩
    · rw [hs]
    · exact (wrapTick_zero s.cfg).symm
  | _ =>
    obtain ⟨htcfg, -⟩ := exec_keeps_port h
    obtain ⟨-, -, htimer⟩ := exec_frame h
    obtain ⟨htticks, -⟩ := htimer rfl
    refine ⟨{ t with cfg := u.cfg, ticks := u.ticks }, ?_, rfl, sameUpToWidth_iff.mpr ⟨htcfg ▸ hcfg, rfl, ?_⟩⟩
    · rw [hu]
      exact exec_ignores_counter rfl h (by rw [hcfg]) u.ticks
    · rw [htticks, htcfg, hticks]

/-! ### A tick and an arming of one instant -/

/-- R116: in either order the arming sets the flag, and at most one tick comes after it. -/
theorem tick_beside_arm {s : State} {f : Flag} {rest : List Arrival} (hvalid : s.cfg.Valid)
    (hpending : s.pending = .requests (some (encode (.tmrArm (flagOperand f)))) none (some (encode .tmrTick)) :: rest) :
    ∃ t u, step s = .next t ∧ step t = .next u ∧ u.pending = rest ∧
      flagSet u.flags f = true ∧ (u.ticks = 0 ∨ u.ticks = 1) := by
  have hraised : flagSet (armedState f s).flags f = true := by rw [flagSet_armedState, decide_eq_true rfl, Bool.true_or]
  have hthreshold := threshold_pos hvalid f
  rcases serve_pair s.draws (Agent.foreground, encode (.tmrArm (flagOperand f))) (Agent.tickSource, encode .tmrTick) with
    hfirst | hfirst
  · have hone : nextTick s.cfg 0 = 1 := nextTick_of_lt hvalid (Nat.zero_lt_of_lt hthreshold)
    refine ⟨_, _, (step_of_serve hpending hfirst).trans ((perform_of_ok (decode_encode _) _).trans
        (execTmrArm_eq_next.mpr ⟨rfl, f, flagOfIndex_flagOperand f, rfl⟩)),
      (step_of_alone (a := .tickSource) rfl (decode_encode .tmrTick)).trans (execTmrTick_eq_next.mpr ⟨rfl, rfl⟩), rfl, ?_,
      .inr hone⟩
    refine (flagSet_tickedState (s := armedState f s) hvalid (windowOpen_armedState hvalid f f)).trans ?_
    exact (survives_of_set hraised 1).trans (decide_eq_true (Nat.lt_of_lt_of_le (show 0 + 1 < 4 by decide) hthreshold))
  · refine ⟨_, _, (step_of_serve hpending hfirst).trans ((perform_of_ok (decode_encode .tmrTick) _).trans
        (execTmrTick_eq_next.mpr ⟨rfl, rfl⟩)),
      (step_of_alone (a := .foreground) rfl (decode_encode (.tmrArm (flagOperand f)))).trans
        (execTmrArm_eq_next.mpr ⟨rfl, f, flagOfIndex_flagOperand f, rfl⟩), rfl, ?_, .inl rfl⟩
    exact (flagSet_armedState f f _).trans (by rw [decide_eq_true rfl, Bool.true_or])

/-! ### The statements -/

/-- Settles O41: the answers agree, the relation goes on, and the unbounded block keeps its windows open. -/
theorem counterWidthUnobservable : Obligations.CounterWidthUnobservable := by
  intro i s t u hvalid hsame hopen h
  obtain ⟨v, hv, hout, hsame'⟩ := exec_sameUpToWidth hvalid hsame hopen h
  have huvalid : u.cfg.Valid := by rw [hsame.1]; exact valid_unbounded hvalid
  exact ⟨v, hv, hout, hsame', exec_keeps_windowsOpen huvalid hopen hv⟩

/-- Settles O33: the tick by its inversion lemma, each flag by the rule for the comparisons. -/
theorem tickCountsThenExpires : Obligations.TickCountsThenExpires := by
  intro s hproducer
  refine ⟨_, _, execTmrTick_eq_next.mpr ⟨hproducer, rfl⟩, ?_, fun e he => ?_⟩
  · unfold nextTick
    cases s.cfg.tickBits <;> rfl
  · obtain ⟨f, rfl⟩ := flag_of_mem_table he
    exact flagSet_expireFlags s.cfg (nextTick s.cfg s.ticks) s.flags f

/-- Settles O34: the arming by its inversion lemma; raising a flag leaves the others. -/
theorem armRestartsCounterAndSetsFlag : Obligations.ArmRestartsCounterAndSetsFlag := by
  intro k s hforeground hk
  obtain ⟨f, hf, hindex⟩ := flagOfIndex_isSome hk
  refine ⟨f, _, hf, hindex, execTmrArm_eq_next.mpr ⟨hforeground, f, hf, rfl⟩, ?_, fun g hg => ?_⟩
  · rw [flagSet_raiseFlag, decide_eq_true rfl, Bool.true_or]
  · rw [flagSet_raiseFlag, decide_eq_false hg, Bool.false_or]

/-- Settles O35: the test by its inversion lemma; the flag's bit is the index. -/
theorem testAnswersFlagBit : Obligations.TestAnswersFlagBit := by
  intro k s hforeground hk
  obtain ⟨f, hf, hindex⟩ := flagOfIndex_isSome hk
  rw [← hindex]
  exact execTmrTest_eq_next.mpr ⟨hforeground, f, hf, rfl⟩

/-- Settles O36: the clear by its inversion lemma. -/
theorem timerClearResetsUnit : Obligations.TimerClearResetsUnit := fun _ hforeground =>
  execTmrClear_eq_next.mpr ⟨hforeground, rfl⟩

/-- Settles O37: the armed flag's window over any number of ticks. -/
theorem flagExpiresExactlyAtThreshold : Obligations.FlagExpiresExactlyAtThreshold := by
  intro e he
  obtain ⟨f, rfl⟩ := flag_of_mem_table he
  refine ⟨fun s k hvalid => runOps_arm_tickTimes_test k hvalid (.inl rfl), fun c g hg => ?_⟩
  rw [flagIndex_injective hg]
  rfl

/-- Settles O38: a flag that was set keeps its own threshold and begins at 0 again. -/
theorem armingExtendsOtherWindows : Obligations.ArmingExtendsOtherWindows := by
  intro s k n hvalid hk e he hset
  obtain ⟨f, rfl⟩ := flag_of_mem_table he
  obtain ⟨armed, harmed, -⟩ := flagOfIndex_isSome hk
  rw [flagOfIndex_eq_some.mp harmed]
  exact runOps_arm_tickTimes_test n hvalid (.inr hset)

/-- Settles O39: under the invariant a set flag's window is open. -/
theorem setFlagClearsAfterRemainingTicks : Obligations.SetFlagClearsAfterRemainingTicks := by
  rintro s k ⟨hvalid, -, -, -, hwindows, -⟩ e he hset
  obtain ⟨f, rfl⟩ := flag_of_mem_table he
  obtain ⟨t, hrun, hresult⟩ := runOps_tickTimes_test k hvalid hset (windowOpen_of_windowsOpen hwindows f)
  have hremaining : s.ticks + k < threshold s.cfg f ↔ k < threshold s.cfg f - s.ticks := by omega
  exact ⟨t, hrun, hresult.trans (congrArg Result.set (decide_eq_decide.mpr hremaining))⟩

/-- Settles O40: a set flag's window is open before the tick, so the new value is at most its threshold. -/
theorem equalsAndReachesAgree : Obligations.EqualsAndReachesAgree := by
  rintro s t ⟨hvalid, -, -, -, hwindows, -⟩ h e he
  obtain ⟨f, rfl⟩ := flag_of_mem_table he
  obtain ⟨-, rfl⟩ := execTmrTick_eq_next.mp h
  have hopen := windowOpen_of_windowsOpen hwindows f
  refine (flagSet_tickedState hvalid hopen).trans ?_
  change survives f 1 s = (flagSet s.flags f && decide (nextTick s.cfg s.ticks < threshold s.cfg f))
  cases hset : flagSet s.flags f with
  | false => exact survives_of_clear hset 1
  | true => rw [survives_of_set hset, nextTick_of_lt hvalid (hopen hset), Bool.true_and]

/-- Settles O42: the three writers by their inversion lemmas, the others by the frame. -/
theorem noSingleFlagCancellation : Obligations.NoSingleFlagCancellation := by
  intro i s t h
  obtain ⟨hcfg, -⟩ := exec_keeps_port h
  cases i with
  | tmrTick =>
    obtain ⟨-, rfl⟩ := execTmrTick_eq_next.mp h
    refine ⟨fun f hset hclear => .inl ⟨rfl, ?_⟩, fun f hclear hset => ?_, fun _ => .inl rfl, hcfg⟩
    · rw [flagSet_expireFlags, hset, Bool.true_and, decide_eq_false_iff_not, not_not] at hclear
      exact hclear
    · rw [flagSet_expireFlags, hclear] at hset
      cases hset
  | tmrArm k =>
    obtain ⟨-, g, hg, rfl⟩ := execTmrArm_eq_next.mp h
    refine ⟨fun f hset hclear => ?_, fun f hclear hset => ⟨?_, rfl⟩, fun _ => .inr (.inr ⟨k, rfl⟩), hcfg⟩
    · rw [flagSet_raiseFlag, hset, Bool.or_true] at hclear
      cases hclear
    · rw [flagSet_raiseFlag, hclear, Bool.or_false, decide_eq_true_eq] at hset
      rw [hset, flagOfIndex_eq_some.mp hg]
  | tmrClear =>
    obtain ⟨-, rfl⟩ := execTmrClear_eq_next.mp h
    refine ⟨fun _ _ _ => .inr rfl, fun f _ hset => ?_, fun _ => .inr (.inl rfl), hcfg⟩
    exact absurd ((flagSet_zero f).symm.trans hset) Bool.false_ne_true
  | _ =>
    obtain ⟨-, -, htimer⟩ := exec_frame h
    obtain ⟨hticks, hflags⟩ := htimer rfl
    rw [hflags]
    exact ⟨fun f hset hclear => absurd (hclear.symm.trans hset) Bool.false_ne_true,
      fun f hclear hset => absurd (hclear.symm.trans hset) Bool.false_ne_true, fun hne => absurd hticks hne, hcfg⟩

/-- Settles O56: either order of the two. -/
theorem tickBesideArm : Obligations.TickBesideArm := fun _ _ _ => tick_beside_arm

end Sys2Proof.Proofs
end

section
/-! SUPPORT. A wait along an interleaving (R120 to R124): what each turn does to phase, queue and timer, that legal turns complete,
and that the flag's window decides whether a test can end the wait. -/

namespace Sys2Proof.Proofs

open Sys2Proof Sys2Proof.Machine Sys2Proof.Safety

variable {flag : Flag} {predicate : VisibleFrame → Bool} {turn : Turn} {turns : List Turn} {p : WaitPhase} {s t : State}
  {w w' : WaitPhase × State}

/-! ### One turn -/

theorem waitTurn_tick (flag : Flag) (predicate : VisibleFrame → Bool) (p : WaitPhase) (s : State) :
    waitTurn flag predicate .tick (p, s) = some (p, tickedState s) := by
  simp only [waitTurn, issue_tick_eq]

theorem waitTurn_push_eq_some {f : Frame} : waitTurn flag predicate (.push f) w = some w' ↔
    ∃ t, issue .busProducer (.rxqPush f) w.2 = .next t ∧ w' = (w.1, t) := by
  simp only [waitTurn]
  cases issue .busProducer (.rxqPush f) w.2 <;> simp [eq_comm]

/-- The foreground's turn, when its operation answers. -/
theorem waitTurn_foreground {i : Instr} (hop : waitOp flag p = some i) (h : issue .foreground i s = .next t) :
    waitTurn flag predicate .foreground (p, s) = some (nextPhase predicate p t.out.result, t) := by
  simp only [waitTurn, hop, h]

/-- A wait that has returned issues no operation. -/
theorem waitTurn_foreground_of_done (hp : p.done = true) :
    waitTurn flag predicate .foreground (p, s) = some (p, s) := by
  cases p with
  | matched f => rfl
  | timedOut => rfl
  | arming | testing | popping => cases hp

theorem waitTurn_arming (flag : Flag) (predicate : VisibleFrame → Bool) (s : State) :
    waitTurn flag predicate .foreground (.arming, s) = some (.testing, armedState flag s) :=
  waitTurn_foreground rfl (issue_arm_eq flag s)

/-- The state an issued test leads to. -/
def testedState (f : Flag) (s : State) : State :=
  { s with issuer := .foreground, out := { result := .set (flagSet s.flags f), overflow := false } }

theorem waitTurn_testing (flag : Flag) (predicate : VisibleFrame → Bool) (s : State) :
    waitTurn flag predicate .foreground (.testing, s) =
      some (if flagSet s.flags flag then .popping else .timedOut, testedState flag s) := by
  refine (waitTurn_foreground rfl (issue_test s flag)).trans ?_
  unfold testedState
  cases flagSet s.flags flag <;> rfl

theorem waitTurn_popping_eq_some (h : waitTurn flag predicate .foreground (.popping, s) = some w) :
    ∃ t, issue .foreground .rxqPop s = .next t ∧ w = (afterPop predicate t.out.result, t) := by
  simp only [waitTurn, waitOp] at h
  split at h
  · exact ⟨_, by assumption, (Option.some.inj h).symm⟩
  · cases h

theorem afterPop_cases (predicate : VisibleFrame → Bool) (r : Result) :
    afterPop predicate r = .testing ∨ ∃ f, afterPop predicate r = .matched f ∧ predicate (visible f) = true := by
  unfold afterPop
  split
  next f =>
    split
    next hf => exact .inr ⟨f, rfl, hf⟩
    next => exact .inl rfl
  next => exact .inl rfl

/-! ### Only a match is returned -/

/-- The frame of a wait that has returned one is a match. -/
def MatchOk (predicate : VisibleFrame → Bool) (p : WaitPhase) : Prop := ∀ f, p = .matched f → predicate (visible f) = true

theorem matchOk_arming (predicate : VisibleFrame → Bool) : MatchOk predicate .arming := by
  rintro f ⟨⟩

theorem waitTurn_keeps_matchOk (hw : MatchOk predicate w.1) (h : waitTurn flag predicate turn w = some w') :
    MatchOk predicate w'.1 := by
  obtain ⟨p, s⟩ := w
  cases turn with
  | push f =>
    obtain ⟨t, -, rfl⟩ := waitTurn_push_eq_some.mp h
    exact hw
  | tick =>
    cases (waitTurn_tick flag predicate p s).symm.trans h
    exact hw
  | foreground =>
    cases p with
    | arming =>
      cases (waitTurn_arming flag predicate s).symm.trans h
      exact nofun
    | testing =>
      cases (waitTurn_testing flag predicate s).symm.trans h
      intro f hf
      split at hf <;> cases hf
    | popping =>
      obtain ⟨t, -, rfl⟩ := waitTurn_popping_eq_some h
      intro f hf
      obtain htesting | ⟨g, hmatched, hg⟩ := afterPop_cases predicate t.out.result
      · cases htesting.symm.trans hf
      · cases hmatched.symm.trans hf
        exact hg
    | matched f => cases h; exact hw
    | timedOut => cases h; exact hw

theorem waitFor_cons_eq_some : waitFor flag predicate (turn :: turns) w = some w' ↔
    ∃ u, waitTurn flag predicate turn w = some u ∧ waitFor flag predicate turns u = some w' := by
  rw [waitFor]
  split <;> simp [*]

theorem waitFor_keeps_matchOk (hw : MatchOk predicate w.1) (h : waitFor flag predicate turns w = some w') :
    MatchOk predicate w'.1 := by
  induction turns generalizing w with
  | nil => cases h; exact hw
  | cons turn turns ih =>
    obtain ⟨u, hturn, hrest⟩ := waitFor_cons_eq_some.mp h
    exact ih (waitTurn_keeps_matchOk hw hturn) hrest

/-! ### The flag along the wait -/

/-- A wait after its arming: the flag's window is open while it is set, and a wait that has timed out saw the flag clear. -/
structure Armed (flag : Flag) (w : WaitPhase × State) : Prop where
  armed : w.1 ≠ .arming
  valid : w.2.cfg.Valid
  windowOpen : WindowOpen flag w.2
  clear : w.1 = .timedOut → flagSet w.2.flags flag = false

theorem armed_armedState (hvalid : s.cfg.Valid) : Armed flag (.testing, armedState flag s) :=
  ⟨nofun, hvalid, windowOpen_armedState hvalid flag flag, nofun⟩

theorem windowOpen_congr (hcfg : t.cfg = s.cfg) (htimer : sameTimer s t) : WindowOpen flag t ↔ WindowOpen flag s := by
  obtain ⟨hticks, hflags⟩ := htimer
  rw [WindowOpen, WindowOpen, hcfg, hticks, hflags]

theorem survives_congr (hcfg : t.cfg = s.cfg) (htimer : sameTimer s t) (n : Nat) :
    survives flag n t = survives flag n s := by
  obtain ⟨hticks, hflags⟩ := htimer
  rw [survives, survives, hcfg, hticks, hflags]

theorem armed_of_sameTimer (hw : Armed flag w) (hcfg : w'.2.cfg = w.2.cfg) (htimer : sameTimer w.2 w'.2)
    (hp : w'.1 ≠ .arming) (hclear : w'.1 = .timedOut → w.1 = .timedOut ∨ flagSet w.2.flags flag = false) :
    Armed flag w' where
  armed := hp
  valid := hcfg ▸ hw.valid
  windowOpen := (windowOpen_congr hcfg htimer).mpr hw.windowOpen
  clear h := by
    rw [htimer.2]
    exact (hclear h).elim hw.clear id

/-- The ticks of one turn. -/
def turnTicks (turn : Turn) : Nat := if turn = .tick then 1 else 0

theorem countTicks_cons (turn : Turn) (turns : List Turn) :
    countTicks (turn :: turns) = countTicks turns + turnTicks turn := by
  simp [countTicks, List.count_cons, turnTicks]

theorem issue_keeps_timer {a : Agent} {i : Instr} (hi : writesTimer i = false) (h : issue a i s = .next t) :
    t.cfg = s.cfg ∧ sameTimer s t := by
  obtain ⟨-, -, htimer⟩ := exec_frame h
  exact ⟨issue_keeps_cfg h, htimer hi⟩

/-- After the arming only a tick reaches the timer, and only a test of a clear flag times out. -/
theorem waitTurn_keeps_armed (hw : Armed flag w) (h : waitTurn flag predicate turn w = some w') :
    Armed flag w' ∧ ∀ n, survives flag n w'.2 = survives flag (n + turnTicks turn) w.2 := by
  have hstill : turn ≠ .tick → w'.2.cfg = w.2.cfg ∧ sameTimer w.2 w'.2 → w'.1 ≠ .arming →
      (w'.1 = .timedOut → w.1 = .timedOut ∨ flagSet w.2.flags flag = false) →
      Armed flag w' ∧ ∀ n, survives flag n w'.2 = survives flag (n + turnTicks turn) w.2 := by
    rintro hturn ⟨hcfg, htimer⟩ hp hclear
    rw [turnTicks, if_neg hturn]
    exact ⟨armed_of_sameTimer hw hcfg htimer hp hclear, survives_congr hcfg htimer⟩
  obtain ⟨p, s⟩ := w
  cases turn with
  | push f =>
    obtain ⟨t, hpush, rfl⟩ := waitTurn_push_eq_some.mp h
    exact hstill nofun (issue_keeps_timer rfl hpush) hw.armed .inl
  | tick =>
    cases (waitTurn_tick flag predicate p s).symm.trans h
    refine ⟨⟨hw.armed, hw.valid, windowOpen_tickedState hw.valid hw.windowOpen, fun hp => ?_⟩,
      survives_tickedState hw.valid hw.windowOpen⟩
    exact (flagSet_tickedState hw.valid hw.windowOpen).trans (survives_of_clear (hw.clear hp) 1)
  | foreground =>
    cases p with
    | arming => exact absurd rfl hw.armed
    | testing =>
      cases (waitTurn_testing flag predicate s).symm.trans h
      refine hstill nofun ⟨rfl, rfl, rfl⟩ ?_ fun htimedOut => .inr ?_
      · simp only; split <;> exact nofun
      · exact Bool.eq_false_of_not_eq_true fun hset => by simp [hset] at htimedOut
    | popping =>
      obtain ⟨t, hpop, rfl⟩ := waitTurn_popping_eq_some h
      have hphase : afterPop predicate t.out.result ≠ .arming ∧ afterPop predicate t.out.result ≠ .timedOut := by
        obtain hnext | ⟨g, hnext, -⟩ := afterPop_cases predicate t.out.result <;> rw [hnext] <;> exact ⟨nofun, nofun⟩
      exact hstill nofun (issue_keeps_timer rfl hpop) hphase.1 fun htimedOut => absurd htimedOut hphase.2
    | matched f => cases h; exact hstill nofun ⟨rfl, rfl, rfl⟩ nofun nofun
    | timedOut => cases h; exact hstill nofun ⟨rfl, rfl, rfl⟩ nofun .inl

theorem waitFor_keeps_armed (hw : Armed flag w) (h : waitFor flag predicate turns w = some w') :
    Armed flag w' ∧ flagSet w'.2.flags flag = survives flag (countTicks turns) w.2 := by
  induction turns generalizing w with
  | nil => cases h; exact ⟨hw, (survives_zero hw.windowOpen).symm⟩
  | cons turn turns ih =>
    obtain ⟨u, hturn, hrest⟩ := waitFor_cons_eq_some.mp h
    obtain ⟨hu, hsurvives⟩ := waitTurn_keeps_armed hw hturn
    obtain ⟨hw', hflag⟩ := ih hu hrest
    exact ⟨hw', by rw [hflag, hsurvives, countTicks_cons]⟩

/-- The flag's window from the arming on, whatever else happens. -/
theorem flagSet_after_arming (hvalid : s.cfg.Valid)
    (h : waitFor flag predicate turns (.testing, armedState flag s) = some w') :
    flagSet w'.2.flags flag = decide (countTicks turns < threshold s.cfg flag) := by
  have hraised : flagSet (armedState flag s).flags flag = true := by
    rw [flagSet_armedState, decide_eq_true rfl, Bool.true_or]
  obtain ⟨-, hflag⟩ := waitFor_keeps_armed (armed_armedState hvalid) h
  rw [hflag, survives_of_set hraised, ticks_armedState, Nat.zero_add]
  rfl

/-- A wait that has left its first phase was armed by the foreground's first turn. -/
theorem waitFor_arming_split (h : waitFor flag predicate turns (.arming, s) = some w') (hw' : w'.1 ≠ .arming) :
    ∃ before after u, turns = before ++ .foreground :: after ∧ Turn.foreground ∉ before ∧ u.cfg = s.cfg ∧
      waitFor flag predicate after (.testing, armedState flag u) = some w' := by
  induction turns generalizing s with
  | nil => cases h; exact absurd rfl hw'
  | cons turn turns ih =>
    obtain ⟨w, hturn, hrest⟩ := waitFor_cons_eq_some.mp h
    have hlater : ∀ t, turn ≠ .foreground → t.cfg = s.cfg → w = (.arming, t) →
        ∃ before after u, turn :: turns = before ++ .foreground :: after ∧ Turn.foreground ∉ before ∧ u.cfg = s.cfg ∧
          waitFor flag predicate after (.testing, armedState flag u) = some w' := by
      rintro t hne hcfg rfl
      obtain ⟨before, after, u, rfl, hbefore, hu, hafter⟩ := ih hrest
      exact ⟨turn :: before, after, u, rfl, List.not_mem_cons_of_ne_of_not_mem hne.symm hbefore, hu.trans hcfg, hafter⟩
    cases turn with
    | push f =>
      obtain ⟨t, hpush, hw⟩ := waitTurn_push_eq_some.mp hturn
      exact hlater t nofun (issue_keeps_cfg hpush) hw
    | tick => exact hlater (tickedState s) nofun rfl (Option.some.inj ((waitTurn_tick ..).symm.trans hturn)).symm
    | foreground =>
      cases (waitTurn_arming flag predicate s).symm.trans hturn
      exact ⟨[], turns, s, rfl, nofun, rfl, hrest⟩

/-! ### Completion -/

theorem waitTurn_completes (hs : Invariant w.2) (hlegal : ∀ f, turn = .push f → f.lengthOk) :
    ∃ w', waitTurn flag predicate turn w = some w' ∧ Invariant w'.2 := by
  obtain ⟨p, s⟩ := w
  have hindices : IndicesOk s := indicesOk_of_invariant hs
  cases turn with
  | push f =>
    obtain ⟨t, ht⟩ := issue_queueInstr_completes (op := .push f) hindices fun g hg => hlegal g (by cases hg; rfl)
    exact ⟨(p, t), waitTurn_push_eq_some.mpr ⟨t, ht, rfl⟩, issue_keeps_invariant hs ht⟩
  | tick => exact ⟨_, waitTurn_tick flag predicate p s, issue_keeps_invariant hs (issue_tick_eq s)⟩
  | foreground =>
    cases p with
    | arming => exact ⟨_, waitTurn_arming flag predicate s, issue_keeps_invariant hs (issue_arm_eq flag s)⟩
    | testing => exact ⟨_, waitTurn_testing flag predicate s, hs⟩
    | popping =>
      obtain ⟨t, ht⟩ := issue_queueInstr_completes (op := .pop) hindices nofun
      exact ⟨_, waitTurn_foreground rfl ht, issue_keeps_invariant hs ht⟩
    | matched f => exact ⟨_, waitTurn_foreground_of_done rfl, hs⟩
    | timedOut => exact ⟨_, waitTurn_foreground_of_done rfl, hs⟩

theorem waitFor_completes (hs : Invariant w.2) (hlegal : ∀ f, Turn.push f ∈ turns → f.lengthOk) :
    ∃ w', waitFor flag predicate turns w = some w' ∧ Invariant w'.2 := by
  induction turns generalizing w with
  | nil => exact ⟨w, rfl, hs⟩
  | cons turn turns ih =>
    obtain ⟨u, hturn, hu⟩ := waitTurn_completes hs fun f hf => hlegal f (hf ▸ List.mem_cons_self)
    obtain ⟨w', hrest, hw'⟩ := ih hu fun f hf => hlegal f (List.mem_cons_of_mem _ hf)
    exact ⟨w', waitFor_cons_eq_some.mpr ⟨u, hturn, hrest⟩, hw'⟩

/-- With the flag clear, the foreground's next turn ends the wait, or takes a last frame out and leaves the test to the turn
after it. -/
theorem waitFor_two_turns_done (hs : Invariant w.2) (hp : w.1 ≠ .arming) (hclear : flagSet w.2.flags flag = false) :
    ∃ w', waitFor flag predicate [.foreground, .foreground] w = some w' ∧ w'.1.done = true := by
  obtain ⟨p, s⟩ := w
  have hdone : ∀ {q : WaitPhase} {u : State}, q.done = true → waitFor flag predicate [.foreground] (q, u) = some (q, u) :=
    fun hq => waitFor_cons_eq_some.mpr ⟨_, waitTurn_foreground_of_done hq, rfl⟩
  have htested : ∀ {u : State}, flagSet u.flags flag = false →
      waitTurn flag predicate .foreground (.testing, u) = some (.timedOut, testedState flag u) := by
    intro u hu
    rw [waitTurn_testing, hu]
    rfl
  cases p with
  | arming => exact absurd rfl hp
  | testing => exact ⟨_, waitFor_cons_eq_some.mpr ⟨_, htested hclear, hdone rfl⟩, rfl⟩
  | popping =>
    obtain ⟨t, ht⟩ := issue_queueInstr_completes (op := .pop) (indicesOk_of_invariant hs) nofun
    have hpop : waitTurn flag predicate .foreground (.popping, s) = some (afterPop predicate t.out.result, t) :=
      waitTurn_foreground rfl ht
    obtain hnext | ⟨g, hnext, -⟩ := afterPop_cases predicate t.out.result
    · obtain ⟨-, -, hflags⟩ := issue_keeps_timer rfl ht
      rw [hnext] at hpop
      exact ⟨_, waitFor_cons_eq_some.mpr ⟨_, hpop, waitFor_cons_eq_some.mpr ⟨_, htested (hflags ▸ hclear), rfl⟩⟩, rfl⟩
    · rw [hnext] at hpop
      exact ⟨_, waitFor_cons_eq_some.mpr ⟨_, hpop, hdone rfl⟩, rfl⟩
  | matched f => exact ⟨_, waitFor_cons_eq_some.mpr ⟨_, waitTurn_foreground_of_done rfl, hdone rfl⟩, rfl⟩
  | timedOut => exact ⟨_, waitFor_cons_eq_some.mpr ⟨_, waitTurn_foreground_of_done rfl, hdone rfl⟩, rfl⟩

/-- R124 items 2 and 3: the threshold's ticks clear the flag, and two turns of the foreground see it. -/
theorem waitFor_ends (hs : Invariant s) (hlegal : ∀ f, Turn.push f ∈ turns → f.lengthOk)
    (hticks : threshold s.cfg flag ≤ countTicks turns) :
    ∃ w', waitFor flag predicate (.foreground :: (turns ++ [.foreground, .foreground])) (.arming, s) = some w' ∧
      w'.1.done = true := by
  obtain ⟨w, hrun, hw⟩ := waitFor_completes (flag := flag) (predicate := predicate) (w := (.testing, armedState flag s))
    (issue_keeps_invariant hs (issue_arm_eq flag s)) hlegal
  obtain ⟨harmed, -⟩ := waitFor_keeps_armed (armed_armedState (valid_of_invariant hs)) hrun
  have hclear : flagSet w.2.flags flag = false :=
    (flagSet_after_arming (valid_of_invariant hs) hrun).trans (decide_eq_false (Nat.not_lt.mpr hticks))
  obtain ⟨w', hlast, hdone⟩ := waitFor_two_turns_done hw harmed.armed hclear
  exact ⟨w', waitFor_cons_eq_some.mpr ⟨_, waitTurn_arming flag predicate s, (waitFor_append hrun).trans hlast⟩, hdone⟩

theorem blockFor_not_matched (h : blockFor flag turns (.arming, s) = some w') (f : Frame) : w'.1 ≠ .matched f :=
  fun hf => Bool.false_ne_true (waitFor_keeps_matchOk (matchOk_arming _) h f hf)

theorem done_cases {p : WaitPhase} (h : p.done = true) : (∃ f, p = .matched f) ∨ p = .timedOut := by
  cases p with
  | matched f => exact .inl ⟨f, rfl⟩
  | timedOut => exact .inr rfl
  | arming | testing | popping => cases h

end Sys2Proof.Proofs
end

section
/-! SUPPORT. The statements about waits. -/

namespace Sys2Proof.Proofs

open Sys2Proof Sys2Proof.Machine Sys2Proof.Safety

/-- R121: a pop with a frame at the head of the queue. -/
theorem waitTurn_pop_of_cons {flag : Flag} {predicate : VisibleFrame → Bool} {s : State} {f : Frame}
    {rest : List (Option Frame)} (hs : Invariant s) (hqueue : queue s = some f :: rest) :
    ∃ g t, waitTurn flag predicate .foreground (.popping, s) =
        some (if predicate (visible f) then .matched g else .testing, t) ∧
      visible g = visible f ∧ queue t = rest := by
  obtain ⟨t, ht⟩ := issue_queueInstr_completes (op := .pop) (indicesOk_of_invariant hs) nofun
  obtain ⟨⟨g, hresult, hvisible⟩, hrest⟩ := issue_pop_of_cons hs ht hqueue
  refine ⟨g, t, (waitTurn_foreground rfl ht).trans ?_, hvisible, hrest⟩
  rw [nextPhase, hresult, afterPop, hvisible]

/-- R121: a pop of the empty queue. -/
theorem waitTurn_pop_of_nil {flag : Flag} {predicate : VisibleFrame → Bool} {s : State} (hs : Invariant s)
    (hqueue : queue s = []) :
    ∃ t, waitTurn flag predicate .foreground (.popping, s) = some (.testing, t) ∧ queue t = [] := by
  obtain ⟨t, ht⟩ := issue_queueInstr_completes (op := .pop) (indicesOk_of_invariant hs) nofun
  obtain ⟨⟨g, hresult⟩, hnil⟩ := issue_pop_of_nil (indicesOk_of_invariant hs) ht hqueue
  refine ⟨t, (waitTurn_foreground rfl ht).trans ?_, hnil⟩
  rw [nextPhase, hresult]
  rfl

/-- Settles O57: the phase holds a match only, and each turn of the foreground by its rule. -/
theorem waitReturnsOnlyAMatch : Obligations.WaitReturnsOnlyAMatch :=
  ⟨fun _ _ _ _ _ f h => waitFor_keeps_matchOk (matchOk_arming _) h f rfl,
    fun _ _ _ _ _ => waitTurn_pop_of_cons,
    fun _ _ _ => waitTurn_pop_of_nil,
    fun flag predicate s => ⟨_, waitTurn_testing flag predicate s, ⟨rfl, rfl, rfl, rfl⟩, ⟨rfl, rfl⟩⟩,
    fun _ _ _ _ => waitTurn_foreground_of_done,
    fun _ _ _ _ _ => blockFor_not_matched⟩

/-- Settles O58: the wait was armed by the foreground's first turn, and its flag stays set before the threshold's ticks. -/
theorem noTimeoutBeforeTheThreshold : Obligations.NoTimeoutBeforeTheThreshold := by
  intro flag predicate turns s t hvalid h
  obtain ⟨before, after, u, hturns, hbefore, hcfg, hafter⟩ := waitFor_arming_split h nofun
  have hu : u.cfg.Valid := hcfg ▸ hvalid
  obtain ⟨harmed, -⟩ := waitFor_keeps_armed (armed_armedState hu) hafter
  have hclear : flagSet t.flags flag = false := harmed.clear rfl
  have hlate := (flagSet_after_arming hu hafter).symm.trans hclear
  rw [decide_eq_false_iff_not, Nat.not_lt, hcfg] at hlate
  exact ⟨hclear, before, after, hturns, hbefore, hlate⟩

/-- Settles O59: the ticks clear the flag and two turns end the wait; without a match it ends in the timeout. -/
theorem waitEndsWhenTicksKeepComing : Obligations.WaitEndsWhenTicksKeepComing := by
  intro flag predicate turns s hs hlegal hticks
  refine ⟨?wait, ?block⟩
  case wait =>
    obtain ⟨⟨p, t⟩, h, hdone⟩ := waitFor_ends hs hlegal hticks
    exact ⟨p, t, h, hdone⟩
  case block =>
    obtain ⟨⟨p, t⟩, h, hdone⟩ := waitFor_ends (predicate := fun _ => false) hs hlegal hticks
    obtain ⟨f, hp⟩ | rfl := done_cases hdone
    · exact absurd hp (blockFor_not_matched h f)
    · exact ⟨t, h⟩

end Sys2Proof.Proofs
end
